-- ==== Sys2Proof/Word.lean ====
section
/-! DEFINITION. The two word types of the notation (00_scope.md R11): a byte is 8 bits, a word is 32 bits, both unsigned. -/

namespace Sys2Proof

/-- 8 bits (R11). -/
abbrev Byte := BitVec 8

/-- 32 bits (R11: "A word is 32 bits unless a width is stated"). -/
abbrev Word := BitVec 32

end Sys2Proof
end

