-- ==== Sys2Proof/Config.lean ====
section
/-! DEFINITION. The configuration record `Cfg` of 00_scope.md R7 to R9, and the free values of the model (opaque, no body). -/

namespace Sys2Proof

/-- `NSAMPLES` (R7): complex samples per frame. -/
def nSamples : Nat := 512
/-- The words of the sample buffer: two per complex sample (R7 `SAMPLE_BYTES`, R24). -/
def sampleWords : Nat := 1024
/-- `FRAME_BYTES` (R7). -/
def frameBytes : Nat := 4136
/-- `CRC_SPAN` (R7): the bytes the CRC covers. -/
def crcSpan : Nat := 4132
/-- `NBANDS` (R7): band indices 0 to 22. -/
def nBands : Nat := 23

/-- The five CRC parameters that R9 keeps as named fields. -/
structure CrcParams where
  poly   : Word
  init   : Word
  refin  : Bool
  refout : Bool
  xorout : Word
deriving DecidableEq, Repr, Inhabited

/-- The values R9 decides (decision D9). -/
def CrcParams.decided : CrcParams :=
  { poly := 0x04C11DB7, init := 0xFFFFFFFF, refin := true, refout := true, xorout := 0xFFFFFFFF }

/-- One entry of `BAND_LADDER`: `(bound, inclusive, index)` (R8, R180). The type of `index` is R181(b): 0 to 22. -/
structure Rung where
  bound     : Word
  inclusive : Bool
  index     : Fin 23
deriving DecidableEq, Repr, Inhabited

/-- The configuration (R8, R9): parameters of the machine, changed by no operation (R37(1)).
`DEFAULTS`, a function from ids to words in R8, is the list of its values from id 0 on; an id past the list has no
documented default and maps to 0 (log entry 16). -/
structure Cfg where
  magic      : Word
  cmdPresent : Bool
  nReg       : Nat
  bandReg    : Nat
  defaults   : List Word
  burstHdr0  : Byte
  burstHdr1  : Byte
  bandLadder : List Rung
  bandLast   : Fin 23
  crc        : CrcParams
deriving DecidableEq, Repr, Inhabited

/-- The byte a buffer holds at a window address after the given number of resets, until it is written
(10_state.md R38, U7: "any value"). Free value, log entry 4. -/
opaque Config.powerOnByte : Nat → Nat → Byte

/-- The environment's answer to the bus request with this number, when it is a `BusOpen` (20_memory.md R74: "The answer is
a free input (a draw)"). Free value, log entry 6. -/
opaque Config.openAnswer : Nat → Bool

/-- The environment's answer to the bus request with this number, when it is a `BusWrite` (R74). Free value, log entry 6. -/
opaque Config.writeAnswer : Nat → Bool

end Sys2Proof
end

