-- ==== Sys2Proof/Machine/Band.lean ====
section
/-! DEFINITION. The band-index function (42_command_ops.md R180). -/

namespace Sys2Proof.Machine

/-- Does frequency `f` fall under this entry of the ladder? Unsigned comparisons (R180). -/
def rungMatches (r : Rung) (f : Word) : Bool :=
  if r.inclusive then decide (f ≤ r.bound) else decide (f < r.bound)

/-- The ladder walked in list order: the first entry that matches wins, `last` above every bound (R180). -/
def ladderIndex (ladder : List Rung) (last : Fin 23) (f : Word) : Fin 23 :=
  match ladder with
  | [] => last
  | r :: rest => if rungMatches r f then r.index else ladderIndex rest last f

/-- `band_index(f)` (R180). -/
def bandIndex (c : Cfg) (f : Word) : Fin 23 :=
  ladderIndex c.bandLadder c.bandLast f

end Sys2Proof.Machine
end

