-- ==== Sys2Proof/Syntax.lean ====
section
/-! DEFINITION. The operations of the opcode map (30_encoding.md R91), one constructor per row of spec/opcode_table.json.
The OP word carries no operand, register number or immediate (R90), so no constructor has an argument. -/

namespace Sys2Proof

/-- The nine operations (R13, R91). -/
inductive Instr where
  /-- NOP (R151). -/
  | nop
  /-- ENCODE (R152). -/
  | encode
  /-- DECODE (R153). -/
  | decode
  /-- CHECK (R154). -/
  | check
  /-- CMD_INIT (R184). -/
  | cmdInit
  /-- CMD_SEND (R185). -/
  | cmdSend
  /-- CMD_IDLE (R186). -/
  | cmdIdle
  /-- CMD_SETBAND (R187). -/
  | cmdSetband
  /-- BANDIDX (R182). -/
  | bandidx
deriving DecidableEq, Repr

/-- Every operation, in the order of the opcode map. -/
def Instr.all : List Instr :=
  [.nop, .encode, .decode, .check, .cmdInit, .cmdSend, .cmdIdle, .cmdSetband, .bandidx]

/-- The operations of the command unit (R2, R91 column "unit"), which exist only when `CMD_PRESENT` is true. -/
def Instr.isCommand : Instr → Bool
  | .nop | .encode | .decode | .check => false
  | .cmdInit | .cmdSend | .cmdIdle | .cmdSetband | .bandidx => true

end Sys2Proof
end

