-- ==== Sys2Proof/WellFormed.lean ====
section
/-! DEFINITION. When a configuration is well formed (00_scope.md R10: every constraint of R8 and of 42_command_ops.md R181), the type
of well-formed configurations the machine is built over, and the well-formedness of an operation and of an OP word. -/

namespace Sys2Proof

/-- `0 <= N_REG <= 16383`, so that `4*N_REG` fits 16 bits (R8). -/
def Cfg.nRegFits (c : Cfg) : Bool := decide (c.nReg ≤ 16383)

/-- `BAND_REG <= N_REG` (R8). -/
def Cfg.bandRegIsRegister (c : Cfg) : Bool := decide (c.bandReg ≤ c.nReg)

/-- R181(a) for two consecutive entries: bounds do not decrease, and a shared bound is (exclusive, then inclusive). -/
def rungsOrdered (a b : Rung) : Bool :=
  decide (a.bound < b.bound) || (decide (a.bound = b.bound) && !a.inclusive && b.inclusive)

/-- R181(a) along the whole list. -/
def ladderOrdered : List Rung → Bool
  | [] => true
  | [_] => true
  | a :: b :: rest => rungsOrdered a b && ladderOrdered (b :: rest)

/-- "So the ladder begins `(1_800_000, exclusive, 0)`, `(2_000_000, inclusive, 1)`" (R181). DEDUCED, log entry 3. -/
def ladderBegins : List Rung → Bool
  | a :: b :: _ => decide (a = ⟨1800000, false, 0⟩) && decide (b = ⟨2000000, true, 1⟩)
  | _ => false

/-- The three single points of R181's table of binding values. -/
def Cfg.bindingPoints (c : Cfg) : Bool :=
  decide (Machine.bandIndex c 2000001 = 2) && decide (Machine.bandIndex c 21449999 = 15)
    && decide (Machine.bandIndex c 54000001 = 22)

/-- The CRC parameters have their decided values (R9). -/
def Cfg.crcDecided (c : Cfg) : Bool := decide (c.crc = CrcParams.decided)

/-- A well-formed configuration (R10). R181(b) holds by the type of an index. -/
def Cfg.wellFormed (c : Cfg) : Bool :=
  c.nRegFits && c.bandRegIsRegister && ladderOrdered c.bandLadder && ladderBegins c.bandLadder
    && c.bindingPoints && c.crcDecided

/-- The smallest well-formed configuration, which shows that one exists. No statement rests on its values and
`Config.cfg` below is not equal to it in any proof. -/
def Cfg.witness : Cfg :=
  { magic := 0, cmdPresent := true, nReg := 0, bandReg := 0, defaults := [], burstHdr0 := 0, burstHdr1 := 0,
    bandLadder := [⟨1800000, false, 0⟩, ⟨2000000, true, 1⟩, ⟨21000000, false, 2⟩, ⟨21450000, false, 15⟩],
    bandLast := 22, crc := CrcParams.decided }

/-- A configuration with the proof that it is well formed. "Every rule of this spec is stated for well-formed configurations only"
(R10): the machine is built over this type, so no state has an ill-formed one. -/
structure WfCfg where
  raw : Cfg := Cfg.witness
  wf  : raw.wellFormed = true := by decide
deriving DecidableEq, Repr, Inhabited

/-- The configuration of the machine that `State.reset` starts: any well-formed one. Free value, log entry 1. -/
opaque Config.cfg : WfCfg

/-- An operation has no operand, so each is well formed (R90). -/
def Instr.wellFormed : Instr → Bool
  | .nop | .encode | .decode | .check | .cmdInit | .cmdSend | .cmdIdle | .cmdSetband | .bandidx => true

/-- The `zero` field of the format `OPW`: bits 31:8 must be 0 (R90). -/
def zeroField (w : Word) : BitVec 24 := w.extractLsb' 8 24

end Sys2Proof
end

