-- ==== Sys2Proof/Decode.lean ====
section
/-! DEFINITION. The decoder of OP words (30_encoding.md R90 to R92), total on all 2^32 words, and the encoder. -/

namespace Sys2Proof

/-- Why an OP word is illegal (R92). -/
inductive DecodeError where
  /-- `w[31:8] != 0`. -/
  | upperBitsNonZero
  /-- `w[31:8] = 0` and the opcode is none of the nine. -/
  | reservedOpcode
deriving DecidableEq, Repr

/-- The `opcode` field, bits 7:0 (R90). -/
def opcodeField (w : Word) : Byte := w.extractLsb' 0 8

/-- The opcode map (R91). -/
def opcodeMap (op : Byte) : Option Instr :=
  match op.toNat with
  | 0x00 => some .nop
  | 0x01 => some .encode
  | 0x02 => some .decode
  | 0x03 => some .check
  | 0x10 => some .cmdInit
  | 0x11 => some .cmdSend
  | 0x12 => some .cmdIdle
  | 0x13 => some .cmdSetband
  | 0x14 => some .bandidx
  | _ => none

/-- The operation an OP word selects (R91), or why it is illegal (R92). Whether the command unit is present is tested by the
operation itself. -/
def decode (w : Word) : Except DecodeError Instr :=
  if zeroField w ≠ 0 then .error .upperBitsNonZero
  else
    match opcodeMap (opcodeField w) with
    | some i => .ok i
    | none => .error .reservedOpcode

/-- The row of the opcode table read as the host gives it: `nbits` bits of `w`, the rest zero. A number past 32 bits is no OP word. -/
def decodeTableWord (nbits w : Nat) : Option Instr :=
  let bits := w % 2 ^ nbits
  if bits < 2 ^ 32 then
    match decode (BitVec.ofNat 32 bits) with
    | .ok i => some i
    | .error _ => none
  else none

/-- The OP word of each operation: `match` of its row (R91). -/
def encode : Instr → Word
  | .nop => 0x00000000
  | .encode => 0x00000001
  | .decode => 0x00000002
  | .check => 0x00000003
  | .cmdInit => 0x00000010
  | .cmdSend => 0x00000011
  | .cmdIdle => 0x00000012
  | .cmdSetband => 0x00000013
  | .bandidx => 0x00000014

end Sys2Proof
end

