-- ==== Sys2Proof/Machine/Crc.lean ====
section
/-! DEFINITION. The function `crc32` (40_crc.md): the least-significant-bit-first form of R131, which the operations use, and the
general form of R130 over the five named parameters. -/

namespace Sys2Proof.Machine

/-- `reflect_32(0x04C11DB7)` (R131). -/
def crcPolyReflected : Word := 0xEDB88320

/-- One bit of R131: shift right, and XOR the reflected polynomial when bit 0 was 1. -/
def crcBit (c : Word) : Word :=
  if c.getLsbD 0 then (c >>> 1) ^^^ crcPolyReflected else c >>> 1

/-- One byte of R131: XOR the byte in, then eight bit steps. -/
def crcByte (c : Word) (b : Byte) : Word :=
  crcBit (crcBit (crcBit (crcBit (crcBit (crcBit (crcBit (crcBit (c ^^^ b.setWidth 32))))))))

/-- The register `c` of R131 after the bytes of `m`, just before the final XOR. -/
def crcRegister (m : List Byte) : Word := m.foldl crcByte 0xFFFFFFFF

/-- `crc32(m)` (R131). -/
def crc32 (m : List Byte) : Word := crcRegister m ^^^ 0xFFFFFFFF

/-- One bit of R130: shift left, and XOR the polynomial when bit 31 was 1. -/
def crcBitGeneral (p : CrcParams) (reg : Word) : Word :=
  if reg.getLsbD 31 then (reg <<< 1) ^^^ p.poly else reg <<< 1

/-- One byte of R130. -/
def crcByteGeneral (p : CrcParams) (reg : Word) (b : Byte) : Word :=
  let b' := if p.refin then b.reverse else b
  (crcBitGeneral p)^[8] (reg ^^^ (b'.setWidth 32 <<< 24))

/-- `crc32(m)` in the general form (R130). -/
def crc32General (p : CrcParams) (m : List Byte) : Word :=
  let reg := m.foldl (crcByteGeneral p) p.init
  (if p.refout then reg.reverse else reg) ^^^ p.xorout

end Sys2Proof.Machine
end

