-- ==== Sys2Proof/Machine/State.lean ====
section
/-! DEFINITION. The state of the FFM (10_state.md R20), as plain data, its reset value (R38), and the reasons a step can stop.
Beside the spec's state stand the model's own fields: configuration, pending inputs, scripted answers and the two histories. -/

namespace Sys2Proof.Machine

/-- No step faults: the spec describes what every access and every operation does, failures included (STATUS codes of R220,
`SlaveError` of R60), and lets nothing stop the machine (R228). Closed and without constructor, so nothing can raise it; safe. -/
inductive Fault where
deriving DecidableEq, Repr

/-- Why the model gives no meaning. -/
inductive Refusal where
  /-- Raised by `exec` for an operation that has no meaning in the model (none at present). Safe. -/
  | notModelled (mnemonic : String)
  /-- Raised by `State.configure` for an ill-formed configuration: "the model gives no meaning to an ill-formed one (it refuses it)"
  (R10, U10). Safe. -/
  | illFormedConfiguration
deriving DecidableEq, Repr

/-- The names of the field registers `x[0]` to `x[13]` (R21). -/
inductive Field where
  | flags | rsv1 | txpwr | vswr | alc | vext | vbat | batcap | rsv2 | atu | rsv3_0 | rsv3_1 | rsv3_2 | rsv3_3
deriving DecidableEq, Repr

/-- The field register file: one 32-bit, eight 8-bit, five 32-bit registers (R20, R21). -/
structure FieldRegs where
  flags  : Word
  rsv1   : Byte
  txpwr  : Byte
  vswr   : Byte
  alc    : Byte
  vext   : Byte
  vbat   : Byte
  batcap : Byte
  rsv2   : Byte
  atu    : Word
  rsv3_0 : Word
  rsv3_1 : Word
  rsv3_2 : Word
  rsv3_3 : Word
deriving DecidableEq, Repr

/-- All field registers 0 (R38). -/
def FieldRegs.zero : FieldRegs :=
  { flags := 0, rsv1 := 0, txpwr := 0, vswr := 0, alc := 0, vext := 0, vbat := 0, batcap := 0, rsv2 := 0, atu := 0,
    rsv3_0 := 0, rsv3_1 := 0, rsv3_2 := 0, rsv3_3 := 0 }

/-- The buffers SB, FB and SHADOW, as the bytes written since reset, keyed by byte offset in the host window (R61) and strictly rising.
An address that is not listed has not been written: it reads as its power-on byte (log entry 4). -/
abbrev Memory := List Host.Cell

/-- What reaches the FFM from outside: a host access (R60) or the reset event (R250). -/
inductive Input where
  | hostRead (off : Nat)
  | hostWrite (off : Nat) (v : Word)
  | reset
deriving DecidableEq, Repr

/-- What the host port answers (R60). -/
inductive Response where
  | readOk (v : Word)
  | writeOk
  | slaveError
deriving DecidableEq, Repr

/-- One bus request with its payload and its answer (R74). -/
inductive BusEvent where
  | openReq (answer : Bool)
  | writeReq (payload : List Byte) (answer : Bool)
deriving DecidableEq, Repr

/-- One host access and the port's response to it. -/
structure Exchange where
  access   : Input
  response : Response
deriving DecidableEq, Repr

/-- The machine. The first group of fields is the spec's state (R20), the second is the model's own (R37). -/
structure State where
  /-- `x[0]..x[13]` (R21). -/
  x           : FieldRegs
  /-- SB (R24), FB (R25) and SHADOW (R34). -/
  mem         : Memory
  /-- `STATUS[11:0]` (R27); bit 12 is `openFlag`. -/
  status      : BitVec 12
  /-- OPEN (R35). -/
  openFlag    : Bool
  /-- NSAMP (R28). -/
  nsamp       : Word
  /-- CRC_CALC (R29). -/
  crcCalc     : Word
  /-- CMD_REG (R31). -/
  cmdReg      : Word
  /-- CMD_VAL (R31). -/
  cmdVal      : Word
  /-- CMD_FREQ (R31). -/
  cmdFreq     : Word
  /-- BAND_OUT (R32). -/
  bandOut     : Byte
  /-- CUR_BAND (R33). -/
  curBand     : Byte
  /-- The configuration (R8); no step changes it. -/
  cfg         : WfCfg
  /-- Inputs still to be served, oldest first (R71). -/
  port        : List Input
  /-- Answers the environment has ready for the next `BusOpen` requests (R74, R104). -/
  openAnswers : List Bool
  /-- Answers the environment has ready for the next `BusWrite` requests (R74, R104). -/
  writeAnswers : List Bool
  /-- Bus requests made so far: the number of the next free answer. -/
  draws       : Nat
  /-- Reset events so far: picks the power-on contents of the buffers (R250, U7). -/
  resets      : Nat
  /-- The ordered log of bus requests (R74). -/
  busLog      : List BusEvent
  /-- The ordered log of host accesses and responses. -/
  hostLog     : List Exchange
deriving DecidableEq, Repr

/-- The state right after power-on for a given configuration: the values of R38, buffers unwritten, nothing pending. -/
def State.initial (c : WfCfg) : State :=
  { x := FieldRegs.zero, mem := [], status := 0, openFlag := false, nsamp := 0, crcCalc := 0, cmdReg := 0, cmdVal := 0,
    cmdFreq := 0, bandOut := 0, curBand := 0, cfg := c, port := [], openAnswers := [], writeAnswers := [], draws := 0,
    resets := 0, busLog := [], hostLog := [] }

/-- The machine right after reset (R38, R250), with any well-formed configuration. -/
def State.reset : State := State.initial Config.cfg

/-- The raw configuration record of a state. -/
abbrev State.config (s : State) : Cfg := s.cfg.raw

end Sys2Proof.Machine
end

