-- ==== Sys2Proof/Machine/Flags.lean ====
section
/-! DEFINITION. The errors of 60_exceptions.md R220, the computation of `STATUS` (R221) and its fields (10_state.md R27). -/

namespace Sys2Proof.Machine

/-- The errors an operation can complete with (R220). -/
inductive OpError where
  | transportOpenFailure
  | transportWriteFailure
  | frameValidationFailure (badMagic badCrc : Bool)
  | structuralPrecondition
  | illegalOp
deriving DecidableEq, Repr

/-- The codes of R220. -/
def errorCode : OpError → BitVec 4
  | .transportOpenFailure => 1
  | .transportWriteFailure => 2
  | .frameValidationFailure _ _ => 3
  | .structuralPrecondition => 4
  | .illegalOp => 5

/-- `BAD_MAGIC` and `BAD_CRC` in bits 8 and 9; 0 for every error but FrameValidationFailure (R221). -/
def causeBits : OpError → BitVec 12
  | .frameValidationFailure badMagic badCrc =>
    ((BitVec.ofBool badMagic).setWidth 12 <<< 8) ||| ((BitVec.ofBool badCrc).setWidth 12 <<< 9)
  | .transportOpenFailure | .transportWriteFailure | .structuralPrecondition | .illegalOp => 0

/-- `STATUS[11:0]` on success: DONE=1, OK=1, ERR=0 (R221). -/
def successStatus : BitVec 12 := 0x003

/-- `STATUS[11:0]` on `raise E` (R221). -/
def errorStatus (e : OpError) : BitVec 12 :=
  0x001 ||| ((errorCode e).setWidth 12 <<< 4) ||| causeBits e

/-- The word a host reads at `STATUS`: bits 11:0 stored, bit 12 the current OPEN, which "reads 0 when `CMD_PRESENT` is false"
(R27, R39), bits 31:13 zero. -/
def State.statusWord (s : State) : Word :=
  s.status.setWidth 32 ||| (if s.config.cmdPresent && s.openFlag then 0x1000 else 0)

/-- `DONE`, bit 0 (R27). -/
def State.statusDone (s : State) : Bool := s.statusWord.getLsbD 0
/-- `OK`, bit 1 (R27). -/
def State.statusOk (s : State) : Bool := s.statusWord.getLsbD 1
/-- `ERR`, bits 7:4 (R27). -/
def State.statusErr (s : State) : BitVec 4 := s.statusWord.extractLsb' 4 4
/-- `BAD_MAGIC`, bit 8 (R27). -/
def State.statusBadMagic (s : State) : Bool := s.statusWord.getLsbD 8
/-- `BAD_CRC`, bit 9 (R27). -/
def State.statusBadCrc (s : State) : Bool := s.statusWord.getLsbD 9
/-- `OPEN`, bit 12 (R27, R35). -/
def State.statusOpen (s : State) : Bool := s.statusWord.getLsbD 12

/-- `RESYNC`, bit 0 of `F_FLAGS` (R23). No operation reads the meaning of a flag; the four names are for claims. -/
def FieldRegs.resync (x : FieldRegs) : Bool := x.flags.getLsbD 0
/-- `TX`, bit 1 of `F_FLAGS` (R23). -/
def FieldRegs.tx (x : FieldRegs) : Bool := x.flags.getLsbD 1
/-- `CHG`, bit 2 of `F_FLAGS` (R23). -/
def FieldRegs.chg (x : FieldRegs) : Bool := x.flags.getLsbD 2
/-- `VEXT`, bit 3 of `F_FLAGS` (R23): external power presence, not the telemetry byte `F_VEXT`. -/
def FieldRegs.vextPresent (x : FieldRegs) : Bool := x.flags.getLsbD 3
/-- The 28 reserved bits 31:4 of `F_FLAGS` (R23, R97). -/
def FieldRegs.reservedFlags (x : FieldRegs) : BitVec 28 := x.flags.extractLsb' 4 28

end Sys2Proof.Machine
end

