-- ==== Sys2Proof/Machine/Wire.lean ====
section
/-! DEFINITION. Little-endian numbers (00_scope.md R12, 20_memory.md R67, R70) and the wire formats of 30_encoding.md: Wire Command
(R100, R101), band argument (R102) and Wire Full-State Burst (R103). -/

namespace Sys2Proof.Machine

/-- The little-endian number held in a list of bytes (R12, R70). -/
def leNumber : List Byte → Nat
  | [] => 0
  | b :: bs => b.toNat + 256 * leNumber bs

/-- The `n` bytes of a number, least significant first (R12: byte `i` is `v[8*i+7:8*i]`). -/
def leBytes : Nat → Nat → List Byte
  | 0, _ => []
  | n + 1, v => BitVec.ofNat 8 v :: leBytes n (v / 256)

/-- The four bytes of a word, least significant first (R67). -/
def wordBytes (w : Word) : List Byte := leBytes 4 w.toNat

/-- The bytes of a list of words, one after the other (R94). -/
def wordsBytes (ws : List Word) : List Byte := ws.flatMap wordBytes

/-- `swap16(a) = a[7:0] ++ a[15:8]` (R11), "an explicit bit operation" (R101). -/
def swap16 (a : BitVec 16) : BitVec 16 := a.extractLsb' 0 8 ++ a.extractLsb' 8 8

/-- The wire address before the swap: `A = trunc_16(4 * r)` (R101). -/
def wireAddress (r : Nat) : BitVec 16 := BitVec.ofNat 16 (4 * r)

/-- `wire_cmd(r, v)` (R100): the 16-bit field holding `swap16(A)` and the argument, both least significant byte first. -/
def wireCmd (r : Nat) (v : Word) : List Byte :=
  leBytes 2 (swap16 (wireAddress r)).toNat ++ wordBytes v

/-- The argument of a band command: `zext_32(b) << 8` (R102). -/
def bandArgument (b : Byte) : Word := b.setWidth 32 <<< 8

/-- `burst(S)` (R103): the header bytes in wire order, then every word of the table in address order. -/
def burstBytes (c : Cfg) (table : List Word) : List Byte :=
  [c.burstHdr0, c.burstHdr1] ++ wordsBytes table

end Sys2Proof.Machine
end

