-- ==== Sys2Proof/Machine/Ops.lean ====
section
/-! DEFINITION. The shared operations: reading and writing the buffers, the bus requests (20_memory.md R74), completing an operation
with success or with an error (41_frame_ops.md R150, 60_exceptions.md R221), and the reset event (70_reset_and_hazards.md R250). -/

namespace Sys2Proof.Machine

/-! Memory: the buffers' written bytes, by window address. -/

/-- The byte written at an address, if one was. -/
def Memory.read (m : Memory) (a : Nat) : Option Byte :=
  match m with
  | [] => none
  | (k, b) :: rest => if k = a then some b else Memory.read rest a

/-- Consecutive cells from address `a` on. -/
def Memory.block (a : Nat) : List Byte → Memory
  | [] => []
  | b :: bs => (a, b) :: Memory.block (a + 1) bs

/-- The memory with `bs` stored at `a`, `a+1`, ... -/
def Memory.write (m : Memory) (a : Nat) (bs : List Byte) : Memory :=
  m.filter (fun c => decide (c.1 < a)) ++ Memory.block a bs ++ m.filter (fun c => decide (a + bs.length ≤ c.1))

/-- The canonical form: addresses strictly rising. (An unlisted address reads as no written value, so no entry can equal it.) -/
def Memory.wf : Memory → Bool
  | [] => true
  | [_] => true
  | a :: b :: rest => decide (a.1 < b.1) && Memory.wf (b :: rest)

/-- Window offset of `SB[0]` (R24, R61). -/
def sbBase : Nat := 0x1000
/-- Window offset of `FB[0]` (R25, R61). -/
def fbBase : Nat := 0x2000
/-- Window offset of `SHADOW[0]` (R34, R61). -/
def shadowBase : Nat := 0x10000

/-- The byte of a buffer at a window address: the one written, or the power-on byte of the current reset (R38, U7). -/
def State.readByte (s : State) (a : Nat) : Byte :=
  match s.mem.read a with
  | some b => b
  | none => Config.powerOnByte s.resets a

/-- The `n` bytes from a window address on, in address order. -/
def State.readBytes (s : State) (a n : Nat) : List Byte :=
  (List.range n).map (fun i => s.readByte (a + i))

/-- The 32-bit word at a window address, least significant byte first (R66, R67). -/
def State.readWord (s : State) (a : Nat) : Word :=
  BitVec.ofNat 32 (leNumber (s.readBytes a 4))

/-- Stores bytes at a window address and the ones after it. -/
def State.writeBytes (s : State) (a : Nat) (bs : List Byte) : State :=
  { s with mem := s.mem.write a bs }

/-- Stores a word at a window address, least significant byte first (R66, R67). -/
def State.writeWord (s : State) (a : Nat) (v : Word) : State :=
  s.writeBytes a (wordBytes v)

/-- `FB[a]` (R12, R25). -/
def State.fb (s : State) (a : Nat) : Byte := s.readByte (fbBase + a)
/-- `MemRead(FB, a, n)` (R12, R70): the little-endian number in `FB[a] .. FB[a+n-1]`. -/
def State.fbMemRead (s : State) (a n : Nat) : Nat := leNumber (s.readBytes (fbBase + a) n)
/-- `MemRead(FB, a, 4)` as a word. -/
def State.fbWord (s : State) (a : Nat) : Word := s.readWord (fbBase + a)
/-- `MemWrite(FB, a, n, v)` (R12, R70). -/
def State.fbMemWrite (s : State) (a n v : Nat) : State := s.writeBytes (fbBase + a) (leBytes n v)
/-- `SB[k]` (R12, R24). -/
def State.sb (s : State) (k : Nat) : Word := s.readWord (sbBase + 4 * k)
/-- All of SB, in order. -/
def State.samples (s : State) : List Word := (List.range sampleWords).map s.sb
/-- `SHADOW[r]` (R12, R34). -/
def State.shadow (s : State) (r : Nat) : Word := s.readWord (shadowBase + 4 * r)
/-- All of SHADOW, in address order. -/
def State.shadowTable (s : State) : List Word := (List.range (s.config.nReg + 1)).map s.shadow
/-- `SHADOW[r] <- v`. -/
def State.setShadow (s : State) (r : Nat) (v : Word) : State := s.writeWord (shadowBase + 4 * r) v
/-- `for r in 0..N_REG: SHADOW[r] <- f r` (R184). -/
def State.fillShadow (s : State) (f : Nat → Word) : State :=
  s.writeBytes shadowBase (wordsBytes ((List.range (s.config.nReg + 1)).map f))
/-- `Cfg.DEFAULTS(r)`; "an id with no documented default maps to 0" (R8). -/
def defaultWord (c : Cfg) (r : Nat) : Word := c.defaults.getD r 0

/-! Completing an operation. -/

/-- The operation ran to its end: `STATUS[11:0] <- 0x003` (R221). -/
def State.succeed (s : State) : State := { s with status := successStatus }

/-- `raise E` (R12, R150, R221): the operation completes with the error. Nothing is saved, no mode changes and control goes nowhere;
state written before stays written. -/
def State.raise (s : State) (e : OpError) : State := { s with status := errorStatus e }

/-- An operation of the command unit: "When it is false every opcode of this file is illegal" (R92, R39). -/
def State.withCommandUnit (s : State) (op : State → State) : State :=
  if s.config.cmdPresent then op s else s.raise .illegalOp

/-! The bus port (R74): what the environment will answer, and the state after the request. -/

/-- The environment's answer to a `BusOpen` made now: the next ready one, else a free one. -/
def State.openAnswer (s : State) : Bool :=
  match s.openAnswers with
  | a :: _ => a
  | [] => Config.openAnswer s.draws

/-- The environment's answer to a `BusWrite` made now. -/
def State.writeAnswer (s : State) : Bool :=
  match s.writeAnswers with
  | a :: _ => a
  | [] => Config.writeAnswer s.draws

/-- `BusOpen()`: the request logged with its answer, the answer used up. -/
def State.busOpen (s : State) : State :=
  { s with openAnswers := s.openAnswers.tail, draws := s.draws + 1, busLog := s.busLog ++ [.openReq s.openAnswer] }

/-- `BusWrite(bytes)`: the request logged with payload and answer, the answer used up. -/
def State.busWrite (s : State) (bytes : List Byte) : State :=
  { s with writeAnswers := s.writeAnswers.tail, draws := s.draws + 1,
           busLog := s.busLog ++ [.writeReq bytes s.writeAnswer] }

/-! Reset and configuration. -/

/-- The reset event (R250): every piece of the spec's state at its value of R38, the buffers' contents unspecified again. The inputs and
answers still to come, the number of requests made and the two logs are not the hardware's and stay. -/
def State.applyReset (s : State) : State :=
  { State.initial s.cfg with
    port := s.port, openAnswers := s.openAnswers, writeAnswers := s.writeAnswers, draws := s.draws,
    resets := s.resets + 1, busLog := s.busLog, hostLog := s.hostLog }

/-- The machine for a given configuration: its initial state if the configuration is well formed, else refused (R10, U10). -/
def State.configure (c : Cfg) : Host.Outcome State Fault Refusal :=
  if h : c.wellFormed = true then .next (State.initial { raw := c, wf := h })
  else .refused .illFormedConfiguration

/-- An outcome whose next state, if there is one, is changed by `f`. -/
def mapNext (o : Host.Outcome State Fault Refusal) (f : State → State) : Host.Outcome State Fault Refusal :=
  match o with
  | .next s => .next (f s)
  | .fault r => .fault r
  | .refused r => .refused r

end Sys2Proof.Machine
end

