-- ==== Sys2Proof/Machine/Operands.lean ====
section
/-! DEFINITION. The locations of the host window (20_memory.md R61), the field registers by number (10_state.md R21, R22), and one host
access to a location (R60, R62 to R64, R66). -/

namespace Sys2Proof.Machine

/-- The number `i` of the field register `x[i]` (R21). -/
def Field.index : Field → Nat
  | .flags => 0 | .rsv1 => 1 | .txpwr => 2 | .vswr => 3 | .alc => 4 | .vext => 5 | .vbat => 6 | .batcap => 7
  | .rsv2 => 8 | .atu => 9 | .rsv3_0 => 10 | .rsv3_1 => 11 | .rsv3_2 => 12 | .rsv3_3 => 13

/-- The field register with a number (R21: there are 14). -/
def fieldOfIndex (i : Nat) : Option Field :=
  match i with
  | 0 => some .flags | 1 => some .rsv1 | 2 => some .txpwr | 3 => some .vswr | 4 => some .alc | 5 => some .vext
  | 6 => some .vbat | 7 => some .batcap | 8 => some .rsv2 | 9 => some .atu | 10 => some .rsv3_0 | 11 => some .rsv3_1
  | 12 => some .rsv3_2 | 13 => some .rsv3_3 | _ => none

/-- A host read of a field register: `zext_32(x[i])` (R22). -/
def FieldRegs.read (x : FieldRegs) : Field → Word
  | .flags => x.flags
  | .rsv1 => x.rsv1.setWidth 32
  | .txpwr => x.txpwr.setWidth 32
  | .vswr => x.vswr.setWidth 32
  | .alc => x.alc.setWidth 32
  | .vext => x.vext.setWidth 32
  | .vbat => x.vbat.setWidth 32
  | .batcap => x.batcap.setWidth 32
  | .rsv2 => x.rsv2.setWidth 32
  | .atu => x.atu
  | .rsv3_0 => x.rsv3_0
  | .rsv3_1 => x.rsv3_1
  | .rsv3_2 => x.rsv3_2
  | .rsv3_3 => x.rsv3_3

/-- A host write of a field register: an 8-bit one keeps only bits 7:0, `trunc_8(v)` (R22). -/
def FieldRegs.write (x : FieldRegs) (f : Field) (v : Word) : FieldRegs :=
  match f with
  | .flags => { x with flags := v }
  | .rsv1 => { x with rsv1 := v.setWidth 8 }
  | .txpwr => { x with txpwr := v.setWidth 8 }
  | .vswr => { x with vswr := v.setWidth 8 }
  | .alc => { x with alc := v.setWidth 8 }
  | .vext => { x with vext := v.setWidth 8 }
  | .vbat => { x with vbat := v.setWidth 8 }
  | .batcap => { x with batcap := v.setWidth 8 }
  | .rsv2 => { x with rsv2 := v.setWidth 8 }
  | .atu => { x with atu := v }
  | .rsv3_0 => { x with rsv3_0 := v }
  | .rsv3_1 => { x with rsv3_1 := v }
  | .rsv3_2 => { x with rsv3_2 := v }
  | .rsv3_3 => { x with rsv3_3 := v }

/-- What a mapped offset of the host window names (R61). `frame w` is word `w` of the FB window (R66). -/
inductive Location where
  | op | status | nsamp | crcCalc
  | field (f : Field)
  | cmdReg | cmdVal | cmdFreq | bandOut | curBand
  | sample (k : Nat)
  | frame (w : Nat)
  | shadow (r : Nat)
deriving DecidableEq, Repr

/-- The offset of a location (R61). -/
def Location.offset : Location → Nat
  | .op => 0x00000
  | .status => 0x00004
  | .nsamp => 0x00008
  | .crcCalc => 0x0000C
  | .field f => 0x00010 + 4 * f.index
  | .cmdReg => 0x00080
  | .cmdVal => 0x00084
  | .cmdFreq => 0x00088
  | .bandOut => 0x0008C
  | .curBand => 0x00090
  | .sample k => sbBase + 4 * k
  | .frame w => fbBase + 4 * w
  | .shadow r => shadowBase + 4 * r

/-- The locations of the codec unit and the shared registers at word index `i` (offset `4*i`) below the buffers (R61). -/
def codecRegister (i : Nat) : Option Location :=
  match i with
  | 0 => some .op
  | 1 => some .status
  | 2 => some .nsamp
  | 3 => some .crcCalc
  | n + 4 => (fieldOfIndex n).map Location.field

/-- The locations of the command unit at word index `i` below the buffers (R61). -/
def commandRegister (i : Nat) : Option Location :=
  match i with
  | 0x20 => some .cmdReg
  | 0x21 => some .cmdVal
  | 0x22 => some .cmdFreq
  | 0x23 => some .bandOut
  | 0x24 => some .curBand
  | _ => none

/-- The location at a byte offset of the host window; `none` where the access answers `SlaveError`: a misaligned or out-of-window offset
(R62) or an unmapped one (R63). Without the command unit its registers and the shadow table are unmapped (R39, R61). -/
def locate (c : Cfg) (off : Nat) : Option Location :=
  if off % 4 ≠ 0 ∨ 0x20000 ≤ off then none
  else if off < 0x48 then codecRegister (off / 4)
  else if off < 0x1000 then (if c.cmdPresent then commandRegister (off / 4) else none)
  else if off < 0x2000 then some (.sample ((off - 0x1000) / 4))
  else if off < 0x3028 then some (.frame ((off - 0x2000) / 4))
  else if off < 0x10000 then none
  else if c.cmdPresent = true ∧ (off - 0x10000) / 4 ≤ c.nReg then some (.shadow ((off - 0x10000) / 4))
  else none

/-- The word a host read of a location returns (R26, R27, R64, R66). -/
def State.readLocation (s : State) : Location → Word
  | .op => 0
  | .status => s.statusWord
  | .nsamp => s.nsamp
  | .crcCalc => s.crcCalc
  | .field f => s.x.read f
  | .cmdReg => s.cmdReg
  | .cmdVal => s.cmdVal
  | .cmdFreq => s.cmdFreq
  | .bandOut => s.bandOut.setWidth 32
  | .curBand => s.curBand.setWidth 32
  | .sample k => s.sb k
  | .frame w => s.fbWord (4 * w)
  | .shadow r => s.shadow r

/-- A host write of a location other than `OP`: read-only locations ignore it (R64). `OP` stores nothing (R26); the operation it starts is
run by `State.runOp`. -/
def State.writeLocation (s : State) (l : Location) (v : Word) : State :=
  match l with
  | .op => s
  | .status => s
  | .nsamp => { s with nsamp := v }
  | .crcCalc => s
  | .field f => { s with x := s.x.write f v }
  | .cmdReg => { s with cmdReg := v }
  | .cmdVal => { s with cmdVal := v }
  | .cmdFreq => { s with cmdFreq := v }
  | .bandOut => s
  | .curBand => s
  | .sample k => s.writeWord (sbBase + 4 * k) v
  | .frame w => s.writeWord (fbBase + 4 * w) v
  | .shadow _ => s

/-- The response to `HostRead(off)` (R60). -/
def State.hostRead (s : State) (off : Nat) : Response :=
  match locate s.config off with
  | some l => .readOk (s.readLocation l)
  | none => .slaveError

/-- One exchange appended to the host port's history. -/
def State.logHost (s : State) (i : Input) (r : Response) : State :=
  { s with hostLog := s.hostLog ++ [{ access := i, response := r }] }

end Sys2Proof.Machine
end

