-- ==== Sys2Proof/Machine/Frame.lean ====
section
/-! DEFINITION. The Flow Frame (30_encoding.md R93 to R99): packing the field registers and the samples, validating, and unpacking. -/

namespace Sys2Proof.Machine

/-- The eight single-byte fields, frame offsets 4104 to 4111 (R93, R96). -/
def FieldRegs.telemetry (x : FieldRegs) : List Byte :=
  [x.rsv1, x.txpwr, x.vswr, x.alc, x.vext, x.vbat, x.batcap, x.rsv2]

/-- The first 4132 bytes of a frame (R93): the bytes ENCODE writes before the CRC, in offset order (R152). -/
def packSpan (magic : Word) (samples : List Word) (x : FieldRegs) : List Byte :=
  wordBytes magic ++ wordsBytes samples ++ wordBytes x.flags ++ x.telemetry ++ wordBytes x.atu
    ++ wordsBytes [x.rsv3_0, x.rsv3_1, x.rsv3_2, x.rsv3_3]

/-- `frame_crc(FB)` (R133): the CRC over `FB[0..4131]`. -/
def State.frameCrc (s : State) : Word := crc32 (s.readBytes fbBase crcSpan)

/-- `bad_magic` of R153: the magic word differs from `Cfg.MAGIC`. -/
def State.badMagic (s : State) : Bool := decide (s.fbWord 0 ≠ s.config.magic)

/-- `bad_crc` of R153: the stored CRC differs from the recomputed one. -/
def State.badCrc (s : State) : Bool := decide (s.fbWord 4132 ≠ s.frameCrc)

/-- A frame is valid when magic and CRC match (R99). -/
def State.frameValid (s : State) : Bool := !(s.badMagic || s.badCrc)

/-- The field registers unpacked from FB (R153). -/
def State.unpackFields (s : State) : FieldRegs :=
  { flags  := s.fbWord 4100
    rsv1   := s.fb 4104
    txpwr  := s.fb 4105
    vswr   := s.fb 4106
    alc    := s.fb 4107
    vext   := s.fb 4108
    vbat   := s.fb 4109
    batcap := s.fb 4110
    rsv2   := s.fb 4111
    atu    := s.fbWord 4112
    rsv3_0 := s.fbWord 4116
    rsv3_1 := s.fbWord 4120
    rsv3_2 := s.fbWord 4124
    rsv3_3 := s.fbWord 4128 }

/-- The samples unpacked from FB: `SB[k] <- MemRead(FB, 4 + 4*k, 4)` for all `k` (R153). -/
def State.unpackSamples (s : State) : List Word :=
  (List.range sampleWords).map (fun k => s.fbWord (4 + 4 * k))

/-- ENCODE's packing once its precondition holds (R152): the span, its CRC behind it, and the CRC in `CRC_CALC`. -/
def State.packFrame (s : State) : State :=
  let span := packSpan s.config.magic s.samples s.x
  let c := crc32 span
  { s.writeBytes fbBase (span ++ wordBytes c) with crcCalc := c }

/-- DECODE's unpacking once the frame is valid (R153). -/
def State.unpackFrame (s : State) : State :=
  { s.writeBytes sbBase (wordsBytes s.unpackSamples) with x := s.unpackFields, nsamp := 512 }

/-- The validation DECODE and CHECK share (R153, R154): the recomputed CRC goes to `CRC_CALC`, both tests are made, and `k` goes on only
if both pass. -/
def State.validateThen (s : State) (k : State → State) : State :=
  let s1 := { s with crcCalc := s.frameCrc }
  if s.frameValid then k s1 else s1.raise (.frameValidationFailure s.badMagic s.badCrc)

end Sys2Proof.Machine
end

