-- ==== Sys2Proof/Machine/Codec.lean ====
section
/-! DEFINITION. The codec unit's operations and NOP (41_frame_ops.md R151 to R154). -/

namespace Sys2Proof.Machine

/-- NOP (R151). -/
def execNop (s : State) : Host.Outcome State Fault Refusal := .next s.succeed

/-- ENCODE (R152): fails unless `NSAMP` is 512 as a 32-bit comparison (R28). -/
def execEncode (s : State) : Host.Outcome State Fault Refusal :=
  .next (if s.nsamp = 512 then s.packFrame.succeed else s.raise .structuralPrecondition)

/-- DECODE (R153). -/
def execDecode (s : State) : Host.Outcome State Fault Refusal :=
  .next (s.validateThen (fun t => t.unpackFrame.succeed))

/-- CHECK (R154). -/
def execCheck (s : State) : Host.Outcome State Fault Refusal :=
  .next (s.validateThen (fun t => t.succeed))

end Sys2Proof.Machine
end

