-- ==== Sys2Proof/Machine/Command.lean ====
section
/-! DEFINITION. The command unit's operations (42_command_ops.md R182 to R187). -/

namespace Sys2Proof.Machine

/-- One `BusWrite` and what follows it: `k` if it is answered success, else TransportWriteFailure (R183, R184, R186). -/
def State.busWriteThen (s : State) (bytes : List Byte) (k : State → State) : State :=
  if s.writeAnswer then k (s.busWrite bytes) else (s.busWrite bytes).raise .transportWriteFailure

/-- The test of `OPEN` before a bus request: while it is 0 no request is made (R188). -/
def State.ifOpen (s : State) (k : State → State) : State :=
  if s.openFlag then k s else s.raise .transportWriteFailure

/-- The inner send `send(r, v)` of R183 with the completion that follows it: the shadow entry is written only after success. -/
def State.send (s : State) (r : Nat) (v : Word) : State :=
  s.ifOpen fun s => s.busWriteThen (wireCmd r v) fun t => (t.setShadow r v).succeed

/-- One `BusWrite` of the whole shadow table, and the completion (R103, R184, R186). -/
def State.sendBurst (s : State) : State :=
  s.busWriteThen (burstBytes s.config s.shadowTable) State.succeed

/-- The shadow table zero-filled, then loaded with the defaults (R184). -/
def State.loadDefaults (s : State) : State :=
  (s.fillShadow (fun _ => 0)).fillShadow (defaultWord s.config)

/-- The pseudocode of CMD_INIT (R184). -/
def State.cmdInit (s : State) : State :=
  let t := { s.busOpen with openFlag := s.openAnswer }
  if s.openAnswer then t.loadDefaults.sendBurst else t.raise .transportOpenFailure

/-- The pseudocode of CMD_SEND (R185): the range test comes first (R223). -/
def State.cmdSend (s : State) : State :=
  if s.config.nReg < s.cmdReg.toNat then s.raise .structuralPrecondition else s.send s.cmdReg.toNat s.cmdVal

/-- The pseudocode of CMD_IDLE (R186). -/
def State.cmdIdle (s : State) : State := s.ifOpen State.sendBurst

/-- The band index of the frequency operand, as the 8-bit value the registers hold (R32, R33). -/
def State.bandOfFreq (s : State) : Byte := BitVec.ofNat 8 (bandIndex s.config s.cmdFreq).val

/-- The pseudocode of CMD_SETBAND (R187): `CUR_BAND` is updated before the send and stays updated if the send fails. An
unchanged band succeeds also while `OPEN` is 0: DEDUCED, log entry 18. -/
def State.cmdSetband (s : State) : State :=
  if s.bandOfFreq = s.curBand then s.succeed
  else { s with curBand := s.bandOfFreq }.send s.config.bandReg (bandArgument s.bandOfFreq)

/-- The pseudocode of BANDIDX (R182). -/
def State.bandidx (s : State) : State := { s with bandOut := s.bandOfFreq }.succeed

/-- CMD_INIT (R184). -/
def execCmdInit (s : State) : Host.Outcome State Fault Refusal := .next (s.withCommandUnit State.cmdInit)

/-- CMD_SEND (R185). -/
def execCmdSend (s : State) : Host.Outcome State Fault Refusal := .next (s.withCommandUnit State.cmdSend)

/-- CMD_IDLE (R186). -/
def execCmdIdle (s : State) : Host.Outcome State Fault Refusal := .next (s.withCommandUnit State.cmdIdle)

/-- CMD_SETBAND (R187). -/
def execCmdSetband (s : State) : Host.Outcome State Fault Refusal := .next (s.withCommandUnit State.cmdSetband)

/-- BANDIDX (R182). -/
def execBandidx (s : State) : Host.Outcome State Fault Refusal := .next (s.withCommandUnit State.bandidx)

end Sys2Proof.Machine
end

