-- ==== Sys2Proof/Machine/Dispatch.lean ====
section
/-! DEFINITION. One operation, by constructor (30_encoding.md R91). -/

namespace Sys2Proof.Machine

def exec (i : Instr) (s : State) : Host.Outcome State Fault Refusal :=
  match i with
  | .nop => Sys2Proof.Machine.execNop s
  | .encode => Sys2Proof.Machine.execEncode s
  | .decode => Sys2Proof.Machine.execDecode s
  | .check => Sys2Proof.Machine.execCheck s
  | .cmdInit => Sys2Proof.Machine.execCmdInit s
  | .cmdSend => Sys2Proof.Machine.execCmdSend s
  | .cmdIdle => Sys2Proof.Machine.execCmdIdle s
  | .cmdSetband => Sys2Proof.Machine.execCmdSetband s
  | .bandidx => Sys2Proof.Machine.execBandidx s

end Sys2Proof.Machine
end

