-- ==== Sys2Proof/Machine/HostPort.lean ====
section
/-! DEFINITION. Serving one input: a host access (20_memory.md R60 to R64, R71), the operation a write to `OP` starts
(41_frame_ops.md R150), or the reset event (R250). -/

namespace Sys2Proof.Machine

/-- A write of word `w` to `OP` (R26, R150): decode; an illegal word raises IllegalOp and reads no operand (R92, R223). -/
def State.runOp (s : State) (w : Word) : Host.Outcome State Fault Refusal :=
  match decode w with
  | .ok i => exec i s
  | .error _ => .next (s.raise .illegalOp)

/-- `HostWrite(off, v)` with its response (R60): "The host write itself always returns `Ok`" for an operation, failed or not (R150). -/
def State.hostWrite (s : State) (off : Nat) (v : Word) : Host.Outcome State Fault Refusal :=
  match locate s.config off with
  | none => .next (s.logHost (.hostWrite off v) .slaveError)
  | some .op => mapNext (s.runOp v) (fun t => t.logHost (.hostWrite off v) .writeOk)
  | some l => .next ((s.writeLocation l v).logHost (.hostWrite off v) .writeOk)

/-- One input served. A host read changes no state of the FFM (R76). -/
def State.serve (s : State) (i : Input) : Host.Outcome State Fault Refusal :=
  match i with
  | .hostRead off => .next (s.logHost (.hostRead off) (s.hostRead off))
  | .hostWrite off v => s.hostWrite off v
  | .reset => .next s.applyReset

/-- The word the host's port carries for an instruction of the opcode table: its `nbits` bits, the rest zero. -/
def tableOpWord (nbits w : Nat) : Word := BitVec.ofNat 32 (w % 2 ^ nbits)

end Sys2Proof.Machine
end

