-- ==== Sys2Proof/Machine/Step.lean ====
section
/-! DEFINITION. One step: the oldest pending input is served, one at a time, in issue order (20_memory.md R71). With none pending the FFM
waits for host accesses (70_reset_and_hazards.md R251). -/

namespace Sys2Proof.Machine

def step (s : State) : Host.Outcome State Fault Refusal :=
  match s.port with
  | [] => .next s
  | i :: rest => { s with port := rest }.serve i

/-- `s` with a host write of the given word to `OP` as the next input (log entry 9). -/
def State.withFetchWord (s : State) (nbits w : Nat) : State :=
  { s with port := .hostWrite 0 (tableOpWord nbits w) :: s.port }

end Sys2Proof.Machine
end

