-- ==== Sys2Proof/Laws/Bytes.lean ====
section
/-! SUPPORT. Laws of little-endian numbers and of the bytes of words. -/

namespace Sys2Proof.Machine

@[simp] theorem leBytes_length (n v : Nat) : (leBytes n v).length = n := by
  induction n generalizing v with
  | zero => rfl
  | succ n ih => simp [leBytes, ih]

@[simp] theorem wordBytes_length (w : Word) : (wordBytes w).length = 4 := leBytes_length 4 _

theorem leNumber_leBytes (n v : Nat) : leNumber (leBytes n v) = v % 256 ^ n := by
  induction n generalizing v with
  | zero => simp [leBytes, leNumber, Nat.mod_one]
  | succ n ih =>
    simp only [leBytes, leNumber, ih, BitVec.toNat_ofNat]
    rw [show (2 : Nat) ^ 8 = 256 from rfl, Nat.pow_succ, Nat.mul_comm (256 ^ n) 256, Nat.mod_mul]

theorem leNumber_lt (bs : List Byte) : leNumber bs < 256 ^ bs.length := by
  induction bs with
  | nil => simp [leNumber]
  | cons b bs ih =>
    have hb := b.isLt
    simp only [leNumber, List.length_cons, Nat.pow_succ]
    omega

theorem leBytes_leNumber (bs : List Byte) : leBytes bs.length (leNumber bs) = bs := by
  induction bs with
  | nil => rfl
  | cons b bs ih =>
    have hb := b.isLt
    have hdiv : (b.toNat + 256 * leNumber bs) / 256 = leNumber bs := by omega
    have hmod : BitVec.ofNat 8 (b.toNat + 256 * leNumber bs) = b := by
      apply BitVec.eq_of_toNat_eq
      simp only [BitVec.toNat_ofNat]
      omega
    simp only [leBytes, leNumber, List.length_cons, hdiv, hmod, ih]

/-- Reading back the four bytes of a word gives the word (R67). -/
@[simp] theorem word_of_wordBytes (w : Word) : BitVec.ofNat 32 (leNumber (wordBytes w)) = w := by
  apply BitVec.eq_of_toNat_eq
  have hw := w.isLt
  rw [wordBytes, leNumber_leBytes, BitVec.toNat_ofNat]
  omega

/-- The four bytes of the word read from four bytes are those bytes. -/
theorem wordBytes_of_word (bs : List Byte) (h : bs.length = 4) :
    wordBytes (BitVec.ofNat 32 (leNumber bs)) = bs := by
  have hlt := leNumber_lt bs
  rw [h] at hlt
  have ht : (BitVec.ofNat 32 (leNumber bs)).toNat = leNumber bs := by
    rw [BitVec.toNat_ofNat]; omega
  rw [wordBytes, ht, ← h, leBytes_leNumber]

theorem wordBytes_injective {v w : Word} (h : wordBytes v = wordBytes w) : v = w := by
  rw [← word_of_wordBytes v, h, word_of_wordBytes]

/-- The four bytes of a word, by slices (R67). -/
theorem wordBytes_eq (w : Word) :
    wordBytes w = [w.extractLsb' 0 8, w.extractLsb' 8 8, w.extractLsb' 16 8, w.extractLsb' 24 8] := by
  simp only [wordBytes, leBytes, List.cons.injEq, and_true]
  refine ⟨?_, ?_, ?_, ?_⟩ <;> apply BitVec.eq_of_toNat_eq <;>
    simp [BitVec.extractLsb'_toNat, Nat.shiftRight_eq_div_pow, Nat.div_div_eq_div_mul]

@[simp] theorem wordsBytes_nil : wordsBytes [] = [] := rfl

@[simp] theorem wordsBytes_cons (w : Word) (ws : List Word) :
    wordsBytes (w :: ws) = wordBytes w ++ wordsBytes ws := rfl

@[simp] theorem wordsBytes_append (vs ws : List Word) :
    wordsBytes (vs ++ ws) = wordsBytes vs ++ wordsBytes ws := by
  simp [wordsBytes]

@[simp] theorem wordsBytes_length (ws : List Word) : (wordsBytes ws).length = 4 * ws.length := by
  induction ws with
  | nil => rfl
  | cons w ws ih => simp only [wordsBytes_cons, List.length_append, wordBytes_length, ih, List.length_cons]; omega

/-- Bytes `4*k` to `4*k+3` of the bytes of a list of words are the bytes of word `k`. -/
theorem wordsBytes_slice (ws : List Word) (k : Nat) (h : k < ws.length) :
    ((wordsBytes ws).drop (4 * k)).take 4 = wordBytes ws[k] := by
  induction ws generalizing k with
  | nil => exact absurd h (Nat.not_lt_zero _)
  | cons w ws ih =>
    cases k with
    | zero => simp
    | succ k =>
      have hk : k < ws.length := by simpa using h
      have hdrop : (wordBytes w).drop (4 * (k + 1)) = [] := List.drop_eq_nil_of_le (by simp)
      rw [wordsBytes_cons, List.drop_append, hdrop, wordBytes_length, List.nil_append,
        show 4 * (k + 1) - 4 = 4 * k by omega]
      simpa using ih k hk

@[simp] theorem wireCmd_length (r : Nat) (v : Word) : (wireCmd r v).length = 6 := by
  simp [wireCmd]

@[simp] theorem burstBytes_length (c : Cfg) (ws : List Word) : (burstBytes c ws).length = 2 + 4 * ws.length := by
  simp [burstBytes]; omega

end Sys2Proof.Machine
end

