-- ==== Sys2Proof/Laws/Memory.lean ====
section
/-! SUPPORT. Laws of the memory: read after write, and the canonical form that every write keeps. -/

namespace Sys2Proof.Machine

@[simp] theorem Memory.read_nil (a : Nat) : Memory.read [] a = none := rfl

theorem Memory.read_append (m n : Memory) (a : Nat) : Memory.read (m ++ n) a = (Memory.read m a).or (Memory.read n a) := by
  induction m with
  | nil => simp
  | cons c m ih =>
    obtain ⟨k, b⟩ := c
    simp only [List.cons_append, Memory.read]
    split
    · rfl
    · exact ih

/-- Cells kept by a test on the address read as before where the test holds. -/
theorem Memory.read_filter (m : Memory) (p : Nat → Bool) (a : Nat) :
    Memory.read (m.filter (fun c => p c.1)) a = if p a then Memory.read m a else none := by
  induction m with
  | nil => simp
  | cons c m ih =>
    obtain ⟨k, b⟩ := c
    by_cases hk : p k = true
    · simp only [List.filter_cons, hk, if_true, Memory.read]
      split
      · next h => simp [← h, hk]
      · exact ih
    · simp only [List.filter_cons, hk, Memory.read]
      by_cases h : k = a
      · subst h; simpa [hk] using ih
      · simpa [h] using ih

theorem Memory.read_block (bs : List Byte) (a c : Nat) :
    Memory.read (Memory.block a bs) c = if a ≤ c then bs[c - a]? else none := by
  induction bs generalizing a with
  | nil => simp [Memory.block]
  | cons b bs ih =>
    simp only [Memory.block, Memory.read, ih]
    by_cases h : a = c
    · subst h; simp
    · simp only [h, if_false]
      by_cases hle : a ≤ c
      · have h1 : a + 1 ≤ c := by omega
        simp only [hle, h1, if_true]
        rw [show c - a = (c - (a + 1)) + 1 by omega, List.getElem?_cons_succ]
      · have h1 : ¬ a + 1 ≤ c := by omega
        simp [hle, h1]

/-- A read after a write: the byte stored inside the stored range, the old one outside. -/
theorem Memory.read_write (m : Memory) (a : Nat) (bs : List Byte) (c : Nat) :
    Memory.read (Memory.write m a bs) c =
      if a ≤ c ∧ c < a + bs.length then bs[c - a]? else Memory.read m c := by
  rw [Memory.write, Memory.read_append, Memory.read_append,
    Memory.read_filter m (fun k => decide (k < a)), Memory.read_block,
    Memory.read_filter m (fun k => decide (a + bs.length ≤ k))]
  simp only [decide_eq_true_eq]
  by_cases h1 : c < a
  · have h2 : ¬ a ≤ c := by omega
    have h3 : ¬ a + bs.length ≤ c := by omega
    simp [h1, h2, h3]
  · by_cases h3 : a + bs.length ≤ c
    · have h4 : a ≤ c := by omega
      have h5 : ¬ c < a + bs.length := by omega
      have h6 : bs[c - a]? = none := by rw [List.getElem?_eq_none_iff]; omega
      simp [h1, h3, h4, h5, h6]
    · have h4 : a ≤ c := by omega
      have h5 : c < a + bs.length := by omega
      simp [h1, h3, h4, h5]

/-- The canonical form as a pairwise fact: addresses strictly rising. -/
theorem Memory.wf_iff (m : Memory) : m.wf = true ↔ m.Pairwise (fun c d => c.1 < d.1) := by
  induction m with
  | nil => simp [Memory.wf]
  | cons c m ih =>
    cases m with
    | nil => simp [Memory.wf]
    | cons d m =>
      simp only [Memory.wf, Bool.and_eq_true, decide_eq_true_eq, ih, List.pairwise_cons]
      constructor
      · rintro ⟨h, hd, hm⟩
        refine ⟨?_, hd, hm⟩
        intro e he
        rcases List.mem_cons.mp he with rfl | he
        · exact h
        · exact Nat.lt_trans h (hd e he)
      · rintro ⟨h, hd, hm⟩
        exact ⟨h d (List.mem_cons_self ..), hd, hm⟩

theorem Memory.mem_block {bs : List Byte} {a : Nat} {c : Host.Cell} (h : c ∈ Memory.block a bs) :
    a ≤ c.1 ∧ c.1 < a + bs.length := by
  induction bs generalizing a with
  | nil => simp [Memory.block] at h
  | cons b bs ih =>
    rcases List.mem_cons.mp h with rfl | h
    · simp
    · have := ih h
      simp only [List.length_cons]
      omega

theorem Memory.block_pairwise (bs : List Byte) (a : Nat) :
    (Memory.block a bs).Pairwise (fun c d => c.1 < d.1) := by
  induction bs generalizing a with
  | nil => simp [Memory.block]
  | cons b bs ih =>
    refine List.pairwise_cons.mpr ⟨?_, ih (a + 1)⟩
    intro c hc
    have := Memory.mem_block hc
    simp only
    omega

/-- A cell of the memory after a write is an old one outside the stored range or one of the stored bytes. -/
theorem Memory.mem_write {m : Memory} {a : Nat} {bs : List Byte} {c : Host.Cell} (h : c ∈ Memory.write m a bs) :
    c ∈ m ∨ (a ≤ c.1 ∧ c.1 < a + bs.length) := by
  rw [Memory.write, List.mem_append, List.mem_append] at h
  rcases h with (h | h) | h
  · exact .inl (List.mem_of_mem_filter h)
  · exact .inr (Memory.mem_block h)
  · exact .inl (List.mem_of_mem_filter h)

/-- Every write keeps the canonical form. -/
theorem Memory.wf_write {m : Memory} (h : m.wf = true) (a : Nat) (bs : List Byte) : (Memory.write m a bs).wf = true := by
  rw [Memory.wf_iff] at h ⊢
  rw [Memory.write, List.pairwise_append, List.pairwise_append]
  refine ⟨⟨h.filter _, Memory.block_pairwise bs a, ?_⟩, h.filter _, ?_⟩
  · intro c hc d hd
    have h1 := of_decide_eq_true (List.mem_filter.mp hc).2
    have h2 := Memory.mem_block hd
    omega
  · intro c hc d hd
    have h2 := of_decide_eq_true (List.mem_filter.mp hd).2
    rcases List.mem_append.mp hc with hc | hc
    · have h1 := of_decide_eq_true (List.mem_filter.mp hc).2
      omega
    · have h1 := Memory.mem_block hc
      omega

theorem State.reset_mem_wf : State.reset.mem.wf = true := rfl

end Sys2Proof.Machine
end

