-- ==== Sys2Proof/Laws/State.lean ====
section
/-! SUPPORT. Each field of the state after each update, one lemma per field, so that no later proof unfolds a record update. -/

namespace Sys2Proof.Machine

variable (s : State)

@[simp] theorem State.writeBytes_x (a : Nat) (bs : List Byte) : (s.writeBytes a bs).x = s.x := rfl
@[simp] theorem State.writeBytes_mem (a : Nat) (bs : List Byte) : (s.writeBytes a bs).mem = s.mem.write a bs := rfl
@[simp] theorem State.writeBytes_status (a : Nat) (bs : List Byte) : (s.writeBytes a bs).status = s.status := rfl
@[simp] theorem State.writeBytes_openFlag (a : Nat) (bs : List Byte) : (s.writeBytes a bs).openFlag = s.openFlag := rfl
@[simp] theorem State.writeBytes_nsamp (a : Nat) (bs : List Byte) : (s.writeBytes a bs).nsamp = s.nsamp := rfl
@[simp] theorem State.writeBytes_crcCalc (a : Nat) (bs : List Byte) : (s.writeBytes a bs).crcCalc = s.crcCalc := rfl
@[simp] theorem State.writeBytes_cmdReg (a : Nat) (bs : List Byte) : (s.writeBytes a bs).cmdReg = s.cmdReg := rfl
@[simp] theorem State.writeBytes_cmdVal (a : Nat) (bs : List Byte) : (s.writeBytes a bs).cmdVal = s.cmdVal := rfl
@[simp] theorem State.writeBytes_cmdFreq (a : Nat) (bs : List Byte) : (s.writeBytes a bs).cmdFreq = s.cmdFreq := rfl
@[simp] theorem State.writeBytes_bandOut (a : Nat) (bs : List Byte) : (s.writeBytes a bs).bandOut = s.bandOut := rfl
@[simp] theorem State.writeBytes_curBand (a : Nat) (bs : List Byte) : (s.writeBytes a bs).curBand = s.curBand := rfl
@[simp] theorem State.writeBytes_cfg (a : Nat) (bs : List Byte) : (s.writeBytes a bs).cfg = s.cfg := rfl
@[simp] theorem State.writeBytes_config (a : Nat) (bs : List Byte) : (s.writeBytes a bs).config = s.config := rfl
@[simp] theorem State.writeBytes_port (a : Nat) (bs : List Byte) : (s.writeBytes a bs).port = s.port := rfl
@[simp] theorem State.writeBytes_openAnswers (a : Nat) (bs : List Byte) : (s.writeBytes a bs).openAnswers = s.openAnswers := rfl
@[simp] theorem State.writeBytes_writeAnswers (a : Nat) (bs : List Byte) : (s.writeBytes a bs).writeAnswers = s.writeAnswers := rfl
@[simp] theorem State.writeBytes_draws (a : Nat) (bs : List Byte) : (s.writeBytes a bs).draws = s.draws := rfl
@[simp] theorem State.writeBytes_resets (a : Nat) (bs : List Byte) : (s.writeBytes a bs).resets = s.resets := rfl
@[simp] theorem State.writeBytes_busLog (a : Nat) (bs : List Byte) : (s.writeBytes a bs).busLog = s.busLog := rfl
@[simp] theorem State.writeBytes_hostLog (a : Nat) (bs : List Byte) : (s.writeBytes a bs).hostLog = s.hostLog := rfl

@[simp] theorem State.writeWord_x (a : Nat) (v : Word) : (s.writeWord a v).x = s.x := rfl
@[simp] theorem State.writeWord_mem (a : Nat) (v : Word) : (s.writeWord a v).mem = s.mem.write a (wordBytes v) := rfl
@[simp] theorem State.writeWord_status (a : Nat) (v : Word) : (s.writeWord a v).status = s.status := rfl
@[simp] theorem State.writeWord_openFlag (a : Nat) (v : Word) : (s.writeWord a v).openFlag = s.openFlag := rfl
@[simp] theorem State.writeWord_nsamp (a : Nat) (v : Word) : (s.writeWord a v).nsamp = s.nsamp := rfl
@[simp] theorem State.writeWord_crcCalc (a : Nat) (v : Word) : (s.writeWord a v).crcCalc = s.crcCalc := rfl
@[simp] theorem State.writeWord_cmdReg (a : Nat) (v : Word) : (s.writeWord a v).cmdReg = s.cmdReg := rfl
@[simp] theorem State.writeWord_cmdVal (a : Nat) (v : Word) : (s.writeWord a v).cmdVal = s.cmdVal := rfl
@[simp] theorem State.writeWord_cmdFreq (a : Nat) (v : Word) : (s.writeWord a v).cmdFreq = s.cmdFreq := rfl
@[simp] theorem State.writeWord_bandOut (a : Nat) (v : Word) : (s.writeWord a v).bandOut = s.bandOut := rfl
@[simp] theorem State.writeWord_curBand (a : Nat) (v : Word) : (s.writeWord a v).curBand = s.curBand := rfl
@[simp] theorem State.writeWord_cfg (a : Nat) (v : Word) : (s.writeWord a v).cfg = s.cfg := rfl
@[simp] theorem State.writeWord_config (a : Nat) (v : Word) : (s.writeWord a v).config = s.config := rfl
@[simp] theorem State.writeWord_port (a : Nat) (v : Word) : (s.writeWord a v).port = s.port := rfl
@[simp] theorem State.writeWord_openAnswers (a : Nat) (v : Word) : (s.writeWord a v).openAnswers = s.openAnswers := rfl
@[simp] theorem State.writeWord_writeAnswers (a : Nat) (v : Word) : (s.writeWord a v).writeAnswers = s.writeAnswers := rfl
@[simp] theorem State.writeWord_draws (a : Nat) (v : Word) : (s.writeWord a v).draws = s.draws := rfl
@[simp] theorem State.writeWord_resets (a : Nat) (v : Word) : (s.writeWord a v).resets = s.resets := rfl
@[simp] theorem State.writeWord_busLog (a : Nat) (v : Word) : (s.writeWord a v).busLog = s.busLog := rfl
@[simp] theorem State.writeWord_hostLog (a : Nat) (v : Word) : (s.writeWord a v).hostLog = s.hostLog := rfl

@[simp] theorem State.setShadow_x (r : Nat) (v : Word) : (s.setShadow r v).x = s.x := rfl
@[simp] theorem State.setShadow_mem (r : Nat) (v : Word) : (s.setShadow r v).mem = s.mem.write (shadowBase + 4 * r) (wordBytes v) := rfl
@[simp] theorem State.setShadow_status (r : Nat) (v : Word) : (s.setShadow r v).status = s.status := rfl
@[simp] theorem State.setShadow_openFlag (r : Nat) (v : Word) : (s.setShadow r v).openFlag = s.openFlag := rfl
@[simp] theorem State.setShadow_nsamp (r : Nat) (v : Word) : (s.setShadow r v).nsamp = s.nsamp := rfl
@[simp] theorem State.setShadow_crcCalc (r : Nat) (v : Word) : (s.setShadow r v).crcCalc = s.crcCalc := rfl
@[simp] theorem State.setShadow_cmdReg (r : Nat) (v : Word) : (s.setShadow r v).cmdReg = s.cmdReg := rfl
@[simp] theorem State.setShadow_cmdVal (r : Nat) (v : Word) : (s.setShadow r v).cmdVal = s.cmdVal := rfl
@[simp] theorem State.setShadow_cmdFreq (r : Nat) (v : Word) : (s.setShadow r v).cmdFreq = s.cmdFreq := rfl
@[simp] theorem State.setShadow_bandOut (r : Nat) (v : Word) : (s.setShadow r v).bandOut = s.bandOut := rfl
@[simp] theorem State.setShadow_curBand (r : Nat) (v : Word) : (s.setShadow r v).curBand = s.curBand := rfl
@[simp] theorem State.setShadow_cfg (r : Nat) (v : Word) : (s.setShadow r v).cfg = s.cfg := rfl
@[simp] theorem State.setShadow_config (r : Nat) (v : Word) : (s.setShadow r v).config = s.config := rfl
@[simp] theorem State.setShadow_port (r : Nat) (v : Word) : (s.setShadow r v).port = s.port := rfl
@[simp] theorem State.setShadow_openAnswers (r : Nat) (v : Word) : (s.setShadow r v).openAnswers = s.openAnswers := rfl
@[simp] theorem State.setShadow_writeAnswers (r : Nat) (v : Word) : (s.setShadow r v).writeAnswers = s.writeAnswers := rfl
@[simp] theorem State.setShadow_draws (r : Nat) (v : Word) : (s.setShadow r v).draws = s.draws := rfl
@[simp] theorem State.setShadow_resets (r : Nat) (v : Word) : (s.setShadow r v).resets = s.resets := rfl
@[simp] theorem State.setShadow_busLog (r : Nat) (v : Word) : (s.setShadow r v).busLog = s.busLog := rfl
@[simp] theorem State.setShadow_hostLog (r : Nat) (v : Word) : (s.setShadow r v).hostLog = s.hostLog := rfl

@[simp] theorem State.fillShadow_x (f : Nat → Word) : (s.fillShadow f).x = s.x := rfl
@[simp] theorem State.fillShadow_mem (f : Nat → Word) : (s.fillShadow f).mem = s.mem.write shadowBase (wordsBytes ((List.range (s.config.nReg + 1)).map f)) := rfl
@[simp] theorem State.fillShadow_status (f : Nat → Word) : (s.fillShadow f).status = s.status := rfl
@[simp] theorem State.fillShadow_openFlag (f : Nat → Word) : (s.fillShadow f).openFlag = s.openFlag := rfl
@[simp] theorem State.fillShadow_nsamp (f : Nat → Word) : (s.fillShadow f).nsamp = s.nsamp := rfl
@[simp] theorem State.fillShadow_crcCalc (f : Nat → Word) : (s.fillShadow f).crcCalc = s.crcCalc := rfl
@[simp] theorem State.fillShadow_cmdReg (f : Nat → Word) : (s.fillShadow f).cmdReg = s.cmdReg := rfl
@[simp] theorem State.fillShadow_cmdVal (f : Nat → Word) : (s.fillShadow f).cmdVal = s.cmdVal := rfl
@[simp] theorem State.fillShadow_cmdFreq (f : Nat → Word) : (s.fillShadow f).cmdFreq = s.cmdFreq := rfl
@[simp] theorem State.fillShadow_bandOut (f : Nat → Word) : (s.fillShadow f).bandOut = s.bandOut := rfl
@[simp] theorem State.fillShadow_curBand (f : Nat → Word) : (s.fillShadow f).curBand = s.curBand := rfl
@[simp] theorem State.fillShadow_cfg (f : Nat → Word) : (s.fillShadow f).cfg = s.cfg := rfl
@[simp] theorem State.fillShadow_config (f : Nat → Word) : (s.fillShadow f).config = s.config := rfl
@[simp] theorem State.fillShadow_port (f : Nat → Word) : (s.fillShadow f).port = s.port := rfl
@[simp] theorem State.fillShadow_openAnswers (f : Nat → Word) : (s.fillShadow f).openAnswers = s.openAnswers := rfl
@[simp] theorem State.fillShadow_writeAnswers (f : Nat → Word) : (s.fillShadow f).writeAnswers = s.writeAnswers := rfl
@[simp] theorem State.fillShadow_draws (f : Nat → Word) : (s.fillShadow f).draws = s.draws := rfl
@[simp] theorem State.fillShadow_resets (f : Nat → Word) : (s.fillShadow f).resets = s.resets := rfl
@[simp] theorem State.fillShadow_busLog (f : Nat → Word) : (s.fillShadow f).busLog = s.busLog := rfl
@[simp] theorem State.fillShadow_hostLog (f : Nat → Word) : (s.fillShadow f).hostLog = s.hostLog := rfl

@[simp] theorem State.succeed_x : s.succeed.x = s.x := rfl
@[simp] theorem State.succeed_mem : s.succeed.mem = s.mem := rfl
@[simp] theorem State.succeed_status : s.succeed.status = successStatus := rfl
@[simp] theorem State.succeed_openFlag : s.succeed.openFlag = s.openFlag := rfl
@[simp] theorem State.succeed_nsamp : s.succeed.nsamp = s.nsamp := rfl
@[simp] theorem State.succeed_crcCalc : s.succeed.crcCalc = s.crcCalc := rfl
@[simp] theorem State.succeed_cmdReg : s.succeed.cmdReg = s.cmdReg := rfl
@[simp] theorem State.succeed_cmdVal : s.succeed.cmdVal = s.cmdVal := rfl
@[simp] theorem State.succeed_cmdFreq : s.succeed.cmdFreq = s.cmdFreq := rfl
@[simp] theorem State.succeed_bandOut : s.succeed.bandOut = s.bandOut := rfl
@[simp] theorem State.succeed_curBand : s.succeed.curBand = s.curBand := rfl
@[simp] theorem State.succeed_cfg : s.succeed.cfg = s.cfg := rfl
@[simp] theorem State.succeed_config : s.succeed.config = s.config := rfl
@[simp] theorem State.succeed_port : s.succeed.port = s.port := rfl
@[simp] theorem State.succeed_openAnswers : s.succeed.openAnswers = s.openAnswers := rfl
@[simp] theorem State.succeed_writeAnswers : s.succeed.writeAnswers = s.writeAnswers := rfl
@[simp] theorem State.succeed_draws : s.succeed.draws = s.draws := rfl
@[simp] theorem State.succeed_resets : s.succeed.resets = s.resets := rfl
@[simp] theorem State.succeed_busLog : s.succeed.busLog = s.busLog := rfl
@[simp] theorem State.succeed_hostLog : s.succeed.hostLog = s.hostLog := rfl

@[simp] theorem State.raise_x (e : OpError) : (s.raise e).x = s.x := rfl
@[simp] theorem State.raise_mem (e : OpError) : (s.raise e).mem = s.mem := rfl
@[simp] theorem State.raise_status (e : OpError) : (s.raise e).status = errorStatus e := rfl
@[simp] theorem State.raise_openFlag (e : OpError) : (s.raise e).openFlag = s.openFlag := rfl
@[simp] theorem State.raise_nsamp (e : OpError) : (s.raise e).nsamp = s.nsamp := rfl
@[simp] theorem State.raise_crcCalc (e : OpError) : (s.raise e).crcCalc = s.crcCalc := rfl
@[simp] theorem State.raise_cmdReg (e : OpError) : (s.raise e).cmdReg = s.cmdReg := rfl
@[simp] theorem State.raise_cmdVal (e : OpError) : (s.raise e).cmdVal = s.cmdVal := rfl
@[simp] theorem State.raise_cmdFreq (e : OpError) : (s.raise e).cmdFreq = s.cmdFreq := rfl
@[simp] theorem State.raise_bandOut (e : OpError) : (s.raise e).bandOut = s.bandOut := rfl
@[simp] theorem State.raise_curBand (e : OpError) : (s.raise e).curBand = s.curBand := rfl
@[simp] theorem State.raise_cfg (e : OpError) : (s.raise e).cfg = s.cfg := rfl
@[simp] theorem State.raise_config (e : OpError) : (s.raise e).config = s.config := rfl
@[simp] theorem State.raise_port (e : OpError) : (s.raise e).port = s.port := rfl
@[simp] theorem State.raise_openAnswers (e : OpError) : (s.raise e).openAnswers = s.openAnswers := rfl
@[simp] theorem State.raise_writeAnswers (e : OpError) : (s.raise e).writeAnswers = s.writeAnswers := rfl
@[simp] theorem State.raise_draws (e : OpError) : (s.raise e).draws = s.draws := rfl
@[simp] theorem State.raise_resets (e : OpError) : (s.raise e).resets = s.resets := rfl
@[simp] theorem State.raise_busLog (e : OpError) : (s.raise e).busLog = s.busLog := rfl
@[simp] theorem State.raise_hostLog (e : OpError) : (s.raise e).hostLog = s.hostLog := rfl

@[simp] theorem State.busOpen_x : s.busOpen.x = s.x := rfl
@[simp] theorem State.busOpen_mem : s.busOpen.mem = s.mem := rfl
@[simp] theorem State.busOpen_status : s.busOpen.status = s.status := rfl
@[simp] theorem State.busOpen_openFlag : s.busOpen.openFlag = s.openFlag := rfl
@[simp] theorem State.busOpen_nsamp : s.busOpen.nsamp = s.nsamp := rfl
@[simp] theorem State.busOpen_crcCalc : s.busOpen.crcCalc = s.crcCalc := rfl
@[simp] theorem State.busOpen_cmdReg : s.busOpen.cmdReg = s.cmdReg := rfl
@[simp] theorem State.busOpen_cmdVal : s.busOpen.cmdVal = s.cmdVal := rfl
@[simp] theorem State.busOpen_cmdFreq : s.busOpen.cmdFreq = s.cmdFreq := rfl
@[simp] theorem State.busOpen_bandOut : s.busOpen.bandOut = s.bandOut := rfl
@[simp] theorem State.busOpen_curBand : s.busOpen.curBand = s.curBand := rfl
@[simp] theorem State.busOpen_cfg : s.busOpen.cfg = s.cfg := rfl
@[simp] theorem State.busOpen_config : s.busOpen.config = s.config := rfl
@[simp] theorem State.busOpen_port : s.busOpen.port = s.port := rfl
@[simp] theorem State.busOpen_openAnswers : s.busOpen.openAnswers = s.openAnswers.tail := rfl
@[simp] theorem State.busOpen_writeAnswers : s.busOpen.writeAnswers = s.writeAnswers := rfl
@[simp] theorem State.busOpen_draws : s.busOpen.draws = s.draws + 1 := rfl
@[simp] theorem State.busOpen_resets : s.busOpen.resets = s.resets := rfl
@[simp] theorem State.busOpen_busLog : s.busOpen.busLog = s.busLog ++ [.openReq s.openAnswer] := rfl
@[simp] theorem State.busOpen_hostLog : s.busOpen.hostLog = s.hostLog := rfl

@[simp] theorem State.busWrite_x (bs : List Byte) : (s.busWrite bs).x = s.x := rfl
@[simp] theorem State.busWrite_mem (bs : List Byte) : (s.busWrite bs).mem = s.mem := rfl
@[simp] theorem State.busWrite_status (bs : List Byte) : (s.busWrite bs).status = s.status := rfl
@[simp] theorem State.busWrite_openFlag (bs : List Byte) : (s.busWrite bs).openFlag = s.openFlag := rfl
@[simp] theorem State.busWrite_nsamp (bs : List Byte) : (s.busWrite bs).nsamp = s.nsamp := rfl
@[simp] theorem State.busWrite_crcCalc (bs : List Byte) : (s.busWrite bs).crcCalc = s.crcCalc := rfl
@[simp] theorem State.busWrite_cmdReg (bs : List Byte) : (s.busWrite bs).cmdReg = s.cmdReg := rfl
@[simp] theorem State.busWrite_cmdVal (bs : List Byte) : (s.busWrite bs).cmdVal = s.cmdVal := rfl
@[simp] theorem State.busWrite_cmdFreq (bs : List Byte) : (s.busWrite bs).cmdFreq = s.cmdFreq := rfl
@[simp] theorem State.busWrite_bandOut (bs : List Byte) : (s.busWrite bs).bandOut = s.bandOut := rfl
@[simp] theorem State.busWrite_curBand (bs : List Byte) : (s.busWrite bs).curBand = s.curBand := rfl
@[simp] theorem State.busWrite_cfg (bs : List Byte) : (s.busWrite bs).cfg = s.cfg := rfl
@[simp] theorem State.busWrite_config (bs : List Byte) : (s.busWrite bs).config = s.config := rfl
@[simp] theorem State.busWrite_port (bs : List Byte) : (s.busWrite bs).port = s.port := rfl
@[simp] theorem State.busWrite_openAnswers (bs : List Byte) : (s.busWrite bs).openAnswers = s.openAnswers := rfl
@[simp] theorem State.busWrite_writeAnswers (bs : List Byte) : (s.busWrite bs).writeAnswers = s.writeAnswers.tail := rfl
@[simp] theorem State.busWrite_draws (bs : List Byte) : (s.busWrite bs).draws = s.draws + 1 := rfl
@[simp] theorem State.busWrite_resets (bs : List Byte) : (s.busWrite bs).resets = s.resets := rfl
@[simp] theorem State.busWrite_busLog (bs : List Byte) : (s.busWrite bs).busLog = s.busLog ++ [.writeReq bs s.writeAnswer] := rfl
@[simp] theorem State.busWrite_hostLog (bs : List Byte) : (s.busWrite bs).hostLog = s.hostLog := rfl

@[simp] theorem State.logHost_x (i : Input) (r : Response) : (s.logHost i r).x = s.x := rfl
@[simp] theorem State.logHost_mem (i : Input) (r : Response) : (s.logHost i r).mem = s.mem := rfl
@[simp] theorem State.logHost_status (i : Input) (r : Response) : (s.logHost i r).status = s.status := rfl
@[simp] theorem State.logHost_openFlag (i : Input) (r : Response) : (s.logHost i r).openFlag = s.openFlag := rfl
@[simp] theorem State.logHost_nsamp (i : Input) (r : Response) : (s.logHost i r).nsamp = s.nsamp := rfl
@[simp] theorem State.logHost_crcCalc (i : Input) (r : Response) : (s.logHost i r).crcCalc = s.crcCalc := rfl
@[simp] theorem State.logHost_cmdReg (i : Input) (r : Response) : (s.logHost i r).cmdReg = s.cmdReg := rfl
@[simp] theorem State.logHost_cmdVal (i : Input) (r : Response) : (s.logHost i r).cmdVal = s.cmdVal := rfl
@[simp] theorem State.logHost_cmdFreq (i : Input) (r : Response) : (s.logHost i r).cmdFreq = s.cmdFreq := rfl
@[simp] theorem State.logHost_bandOut (i : Input) (r : Response) : (s.logHost i r).bandOut = s.bandOut := rfl
@[simp] theorem State.logHost_curBand (i : Input) (r : Response) : (s.logHost i r).curBand = s.curBand := rfl
@[simp] theorem State.logHost_cfg (i : Input) (r : Response) : (s.logHost i r).cfg = s.cfg := rfl
@[simp] theorem State.logHost_config (i : Input) (r : Response) : (s.logHost i r).config = s.config := rfl
@[simp] theorem State.logHost_port (i : Input) (r : Response) : (s.logHost i r).port = s.port := rfl
@[simp] theorem State.logHost_openAnswers (i : Input) (r : Response) : (s.logHost i r).openAnswers = s.openAnswers := rfl
@[simp] theorem State.logHost_writeAnswers (i : Input) (r : Response) : (s.logHost i r).writeAnswers = s.writeAnswers := rfl
@[simp] theorem State.logHost_draws (i : Input) (r : Response) : (s.logHost i r).draws = s.draws := rfl
@[simp] theorem State.logHost_resets (i : Input) (r : Response) : (s.logHost i r).resets = s.resets := rfl
@[simp] theorem State.logHost_busLog (i : Input) (r : Response) : (s.logHost i r).busLog = s.busLog := rfl
@[simp] theorem State.logHost_hostLog (i : Input) (r : Response) : (s.logHost i r).hostLog = s.hostLog ++ [{ access := i, response := r }] := rfl

@[simp] theorem State.packFrame_x : s.packFrame.x = s.x := rfl
@[simp] theorem State.packFrame_mem : s.packFrame.mem = s.mem.write fbBase (packSpan s.config.magic s.samples s.x ++ wordBytes (crc32 (packSpan s.config.magic s.samples s.x))) := rfl
@[simp] theorem State.packFrame_status : s.packFrame.status = s.status := rfl
@[simp] theorem State.packFrame_openFlag : s.packFrame.openFlag = s.openFlag := rfl
@[simp] theorem State.packFrame_nsamp : s.packFrame.nsamp = s.nsamp := rfl
@[simp] theorem State.packFrame_crcCalc : s.packFrame.crcCalc = crc32 (packSpan s.config.magic s.samples s.x) := rfl
@[simp] theorem State.packFrame_cmdReg : s.packFrame.cmdReg = s.cmdReg := rfl
@[simp] theorem State.packFrame_cmdVal : s.packFrame.cmdVal = s.cmdVal := rfl
@[simp] theorem State.packFrame_cmdFreq : s.packFrame.cmdFreq = s.cmdFreq := rfl
@[simp] theorem State.packFrame_bandOut : s.packFrame.bandOut = s.bandOut := rfl
@[simp] theorem State.packFrame_curBand : s.packFrame.curBand = s.curBand := rfl
@[simp] theorem State.packFrame_cfg : s.packFrame.cfg = s.cfg := rfl
@[simp] theorem State.packFrame_config : s.packFrame.config = s.config := rfl
@[simp] theorem State.packFrame_port : s.packFrame.port = s.port := rfl
@[simp] theorem State.packFrame_openAnswers : s.packFrame.openAnswers = s.openAnswers := rfl
@[simp] theorem State.packFrame_writeAnswers : s.packFrame.writeAnswers = s.writeAnswers := rfl
@[simp] theorem State.packFrame_draws : s.packFrame.draws = s.draws := rfl
@[simp] theorem State.packFrame_resets : s.packFrame.resets = s.resets := rfl
@[simp] theorem State.packFrame_busLog : s.packFrame.busLog = s.busLog := rfl
@[simp] theorem State.packFrame_hostLog : s.packFrame.hostLog = s.hostLog := rfl

@[simp] theorem State.unpackFrame_x : s.unpackFrame.x = s.unpackFields := rfl
@[simp] theorem State.unpackFrame_mem : s.unpackFrame.mem = s.mem.write sbBase (wordsBytes s.unpackSamples) := rfl
@[simp] theorem State.unpackFrame_status : s.unpackFrame.status = s.status := rfl
@[simp] theorem State.unpackFrame_openFlag : s.unpackFrame.openFlag = s.openFlag := rfl
@[simp] theorem State.unpackFrame_nsamp : s.unpackFrame.nsamp = 512 := rfl
@[simp] theorem State.unpackFrame_crcCalc : s.unpackFrame.crcCalc = s.crcCalc := rfl
@[simp] theorem State.unpackFrame_cmdReg : s.unpackFrame.cmdReg = s.cmdReg := rfl
@[simp] theorem State.unpackFrame_cmdVal : s.unpackFrame.cmdVal = s.cmdVal := rfl
@[simp] theorem State.unpackFrame_cmdFreq : s.unpackFrame.cmdFreq = s.cmdFreq := rfl
@[simp] theorem State.unpackFrame_bandOut : s.unpackFrame.bandOut = s.bandOut := rfl
@[simp] theorem State.unpackFrame_curBand : s.unpackFrame.curBand = s.curBand := rfl
@[simp] theorem State.unpackFrame_cfg : s.unpackFrame.cfg = s.cfg := rfl
@[simp] theorem State.unpackFrame_config : s.unpackFrame.config = s.config := rfl
@[simp] theorem State.unpackFrame_port : s.unpackFrame.port = s.port := rfl
@[simp] theorem State.unpackFrame_openAnswers : s.unpackFrame.openAnswers = s.openAnswers := rfl
@[simp] theorem State.unpackFrame_writeAnswers : s.unpackFrame.writeAnswers = s.writeAnswers := rfl
@[simp] theorem State.unpackFrame_draws : s.unpackFrame.draws = s.draws := rfl
@[simp] theorem State.unpackFrame_resets : s.unpackFrame.resets = s.resets := rfl
@[simp] theorem State.unpackFrame_busLog : s.unpackFrame.busLog = s.busLog := rfl
@[simp] theorem State.unpackFrame_hostLog : s.unpackFrame.hostLog = s.hostLog := rfl

@[simp] theorem State.applyReset_x : s.applyReset.x = FieldRegs.zero := rfl
@[simp] theorem State.applyReset_mem : s.applyReset.mem = [] := rfl
@[simp] theorem State.applyReset_status : s.applyReset.status = 0 := rfl
@[simp] theorem State.applyReset_openFlag : s.applyReset.openFlag = false := rfl
@[simp] theorem State.applyReset_nsamp : s.applyReset.nsamp = 0 := rfl
@[simp] theorem State.applyReset_crcCalc : s.applyReset.crcCalc = 0 := rfl
@[simp] theorem State.applyReset_cmdReg : s.applyReset.cmdReg = 0 := rfl
@[simp] theorem State.applyReset_cmdVal : s.applyReset.cmdVal = 0 := rfl
@[simp] theorem State.applyReset_cmdFreq : s.applyReset.cmdFreq = 0 := rfl
@[simp] theorem State.applyReset_bandOut : s.applyReset.bandOut = 0 := rfl
@[simp] theorem State.applyReset_curBand : s.applyReset.curBand = 0 := rfl
@[simp] theorem State.applyReset_cfg : s.applyReset.cfg = s.cfg := rfl
@[simp] theorem State.applyReset_config : s.applyReset.config = s.config := rfl
@[simp] theorem State.applyReset_port : s.applyReset.port = s.port := rfl
@[simp] theorem State.applyReset_openAnswers : s.applyReset.openAnswers = s.openAnswers := rfl
@[simp] theorem State.applyReset_writeAnswers : s.applyReset.writeAnswers = s.writeAnswers := rfl
@[simp] theorem State.applyReset_draws : s.applyReset.draws = s.draws := rfl
@[simp] theorem State.applyReset_resets : s.applyReset.resets = s.resets + 1 := rfl
@[simp] theorem State.applyReset_busLog : s.applyReset.busLog = s.busLog := rfl
@[simp] theorem State.applyReset_hostLog : s.applyReset.hostLog = s.hostLog := rfl

end Sys2Proof.Machine
end

