-- ==== Sys2Proof/Laws/Buffers.lean ====
section
/-! SUPPORT. Reading the buffers back after a write, through the state. -/

namespace Sys2Proof.Machine

/-- A byte read depends on the memory and on the number of resets alone. -/
theorem State.readByte_congr {s t : State} (hm : t.mem = s.mem) (hr : t.resets = s.resets) (a : Nat) :
    t.readByte a = s.readByte a := by
  rw [State.readByte, State.readByte, hm, hr]

theorem State.readBytes_congr {s t : State} (hm : t.mem = s.mem) (hr : t.resets = s.resets) (a n : Nat) :
    t.readBytes a n = s.readBytes a n := by
  simp only [State.readBytes, State.readByte_congr hm hr]

theorem State.readWord_congr {s t : State} (hm : t.mem = s.mem) (hr : t.resets = s.resets) (a : Nat) :
    t.readWord a = s.readWord a := by
  rw [State.readWord, State.readWord, State.readBytes_congr hm hr]

@[simp] theorem State.readBytes_length (s : State) (a n : Nat) : (s.readBytes a n).length = n := by
  simp [State.readBytes]

/-- Two runs of bytes are equal when they agree byte by byte. -/
theorem State.readBytes_ext {s t : State} {a b n : Nat} (h : ∀ i, i < n → s.readByte (a + i) = t.readByte (b + i)) :
    s.readBytes a n = t.readBytes b n := by
  simp only [State.readBytes]
  exact List.map_congr_left fun i hi => h i (List.mem_range.mp hi)

theorem State.readBytes_add (s : State) (a m n : Nat) :
    s.readBytes a (m + n) = s.readBytes a m ++ s.readBytes (a + m) n := by
  simp only [State.readBytes, List.range_add, List.map_append, List.map_map]
  congr 1
  exact List.map_congr_left fun i _ => by simp [Nat.add_assoc]

/-- The bytes from an offset into a run are the run from that offset. -/
theorem State.readBytes_slice (s : State) (a n o k : Nat) (h : o + k ≤ n) :
    ((s.readBytes a n).drop o).take k = s.readBytes (a + o) k := by
  obtain ⟨r, rfl⟩ : ∃ r, n = o + (k + r) := ⟨n - (o + k), by omega⟩
  rw [State.readBytes_add, State.readBytes_add,
    List.drop_append_of_le_length (by simp), List.drop_eq_nil_of_le (by simp), List.nil_append,
    List.take_append_of_le_length (by simp), List.take_of_length_le (by simp)]

theorem State.wordBytes_readWord (s : State) (a : Nat) : wordBytes (s.readWord a) = s.readBytes a 4 :=
  wordBytes_of_word _ (by simp)

theorem State.readByte_writeBytes (s : State) (a : Nat) (bs : List Byte) (c : Nat) :
    (s.writeBytes a bs).readByte c =
      if h : a ≤ c ∧ c < a + bs.length then bs[c - a]'(by omega) else s.readByte c := by
  simp only [State.readByte, State.writeBytes_mem, State.writeBytes_resets, Memory.read_write]
  by_cases h : a ≤ c ∧ c < a + bs.length
  · have hlt : c - a < bs.length := by omega
    simp [h, List.getElem?_eq_getElem hlt]
  · simp [h]

/-- Outside the stored range every byte reads as before. -/
theorem State.readByte_writeBytes_outside (s : State) {a : Nat} {bs : List Byte} {c : Nat} (h : c < a ∨ a + bs.length ≤ c) :
    (s.writeBytes a bs).readByte c = s.readByte c := by
  rw [State.readByte_writeBytes, dif_neg (by omega)]

/-- Inside the stored range a run of bytes is a slice of the stored ones. -/
theorem State.readBytes_writeBytes (s : State) (a : Nat) (bs : List Byte) (o n : Nat) (h : o + n ≤ bs.length) :
    (s.writeBytes a bs).readBytes (a + o) n = (bs.drop o).take n := by
  apply List.ext_getElem
  · simp; omega
  · intro i h1 h2
    simp only [State.readBytes_length] at h1
    simp only [State.readBytes, List.getElem_map, List.getElem_range, List.getElem_take, List.getElem_drop]
    rw [State.readByte_writeBytes, dif_pos (by omega)]
    congr 1
    omega

theorem State.readBytes_writeBytes_all (s : State) (a : Nat) (bs : List Byte) :
    (s.writeBytes a bs).readBytes a bs.length = bs := by
  have h := State.readBytes_writeBytes s a bs 0 bs.length (by omega)
  simpa using h

theorem State.readBytes_writeBytes_outside (s : State) {a : Nat} {bs : List Byte} {c n : Nat}
    (h : c + n ≤ a ∨ a + bs.length ≤ c) : (s.writeBytes a bs).readBytes c n = s.readBytes c n :=
  State.readBytes_ext fun i hi => State.readByte_writeBytes_outside s (by omega)

theorem State.readWord_writeBytes (s : State) (a : Nat) (bs : List Byte) (o : Nat) (h : o + 4 ≤ bs.length) :
    (s.writeBytes a bs).readWord (a + o) = BitVec.ofNat 32 (leNumber ((bs.drop o).take 4)) := by
  rw [State.readWord, State.readBytes_writeBytes s a bs o 4 h]

theorem State.readWord_writeBytes_outside (s : State) {a : Nat} {bs : List Byte} {c : Nat}
    (h : c + 4 ≤ a ∨ a + bs.length ≤ c) : (s.writeBytes a bs).readWord c = s.readWord c := by
  rw [State.readWord, State.readWord, State.readBytes_writeBytes_outside s h]

@[simp] theorem State.readWord_writeWord (s : State) (a : Nat) (v : Word) : (s.writeWord a v).readWord a = v := by
  have h := State.readBytes_writeBytes_all s a (wordBytes v)
  rw [wordBytes_length] at h
  rw [State.readWord, State.writeWord, h, word_of_wordBytes]

theorem State.readWord_writeWord_outside (s : State) {a c : Nat} (v : Word) (h : c + 4 ≤ a ∨ a + 4 ≤ c) :
    (s.writeWord a v).readWord c = s.readWord c :=
  State.readWord_writeBytes_outside s (by simpa using h)

/-- Word `k` of a list of words stored from address `a` on. -/
theorem State.readWord_writeWords (s : State) (a : Nat) (ws : List Word) (k : Nat) (h : k < ws.length) :
    (s.writeBytes a (wordsBytes ws)).readWord (a + 4 * k) = ws[k] := by
  rw [State.readWord_writeBytes s a _ _ (by simp; omega), wordsBytes_slice ws k h, word_of_wordBytes]

/-- The words of a run are read back from its bytes. -/
theorem State.wordsBytes_readWords (s : State) (a n : Nat) :
    wordsBytes ((List.range n).map fun k => s.readWord (a + 4 * k)) = s.readBytes a (4 * n) := by
  induction n with
  | zero => rfl
  | succ n ih =>
    rw [List.range_succ, List.map_append, wordsBytes_append, ih, Nat.mul_succ, State.readBytes_add]
    simp [State.wordBytes_readWord]

@[simp] theorem State.samples_length (s : State) : s.samples.length = 1024 := by simp [State.samples, sampleWords]

@[simp] theorem State.unpackSamples_length (s : State) : s.unpackSamples.length = 1024 := by
  simp [State.unpackSamples, sampleWords]

@[simp] theorem State.shadowTable_length (s : State) : s.shadowTable.length = s.config.nReg + 1 := by
  simp [State.shadowTable]

theorem State.shadow_fillShadow (s : State) (f : Nat → Word) (r : Nat) (h : r ≤ s.config.nReg) :
    (s.fillShadow f).shadow r = f r := by
  have hlen : r < ((List.range (s.config.nReg + 1)).map f).length := by simp; omega
  rw [State.shadow, State.fillShadow, State.readWord_writeWords _ _ _ r hlen]
  simp

end Sys2Proof.Machine
end

