-- ==== Sys2Proof/Laws/Frame.lean ====
section
/-! SUPPORT. Where ENCODE's packing puts each field of the frame (30_encoding.md R93), that the packed frame is valid (R99), and what
DECODE's unpacking leaves. -/

namespace Sys2Proof.Machine

@[simp] theorem FieldRegs.telemetry_length (x : FieldRegs) : x.telemetry.length = 8 := rfl

theorem packSpan_length (magic : Word) (samples : List Word) (x : FieldRegs) (h : samples.length = 1024) :
    (packSpan magic samples x).length = crcSpan := by
  simp [packSpan, h, crcSpan]

/-- A segment of the bytes stored, read back. -/
theorem State.readBytes_writeBytes_segment (s : State) {a o n : Nat} {bs : List Byte} (pre mid post : List Byte)
    (hbs : bs = pre ++ (mid ++ post)) (ho : o = pre.length) (hn : n = mid.length) :
    (s.writeBytes a bs).readBytes (a + o) n = mid := by
  subst hbs ho hn
  rw [State.readBytes_writeBytes _ _ _ _ _ (by simp)]
  simp

theorem State.readWord_writeBytes_segment (s : State) {a o : Nat} {bs : List Byte} (pre : List Byte) (w : Word) (post : List Byte)
    (hbs : bs = pre ++ (wordBytes w ++ post)) (ho : o = pre.length) : (s.writeBytes a bs).readWord (a + o) = w := by
  rw [State.readWord, State.readBytes_writeBytes_segment s pre (wordBytes w) post hbs ho (by simp), word_of_wordBytes]

theorem State.readByte_writeBytes_segment (s : State) {a o : Nat} {bs : List Byte} (pre : List Byte) (b : Byte) (post : List Byte)
    (hbs : bs = pre ++ (b :: post)) (ho : o = pre.length) : (s.writeBytes a bs).readByte (a + o) = b := by
  have h := State.readBytes_writeBytes_segment s (a := a) pre [b] post hbs ho rfl
  simpa [State.readBytes, List.range_succ] using h

/-- All the bytes of a frame: the span and its CRC (R93, R98). -/
def frameOf (magic : Word) (samples : List Word) (x : FieldRegs) : List Byte :=
  packSpan magic samples x ++ wordBytes (crc32 (packSpan magic samples x))

section FrameOf

variable (s : State) (magic : Word) (samples : List Word) (x : FieldRegs)

theorem frameOf_length (h : samples.length = 1024) : (frameOf magic samples x).length = frameBytes := by
  rw [frameOf, List.length_append, packSpan_length _ _ _ h, wordBytes_length]
  rfl

/-- The fields that follow the samples, and the CRC. -/
def frameTail (x : FieldRegs) (c : Word) : List Byte :=
  wordBytes x.flags ++ (x.telemetry ++ (wordBytes x.atu ++ (wordBytes x.rsv3_0 ++ (wordBytes x.rsv3_1 ++ (wordBytes x.rsv3_2
    ++ (wordBytes x.rsv3_3 ++ wordBytes c))))))

theorem frameOf_eq : frameOf magic samples x =
    wordBytes magic ++ (wordsBytes samples ++ frameTail x (crc32 (packSpan magic samples x))) := by
  rw [frameOf]
  generalize crc32 (packSpan magic samples x) = c
  simp only [packSpan, frameTail, wordsBytes_cons, wordsBytes_nil, List.append_assoc, List.append_nil]

theorem readBytes_frameOf_span (h : samples.length = 1024) :
    (s.writeBytes fbBase (frameOf magic samples x)).readBytes fbBase crcSpan = packSpan magic samples x := by
  have hr := State.readBytes_writeBytes s fbBase (frameOf magic samples x) 0 crcSpan
    (by rw [frameOf_length _ _ _ h]; decide)
  rw [Nat.add_zero, List.drop_zero, frameOf, List.take_append_of_le_length (by rw [packSpan_length _ _ _ h]),
    List.take_of_length_le (by rw [packSpan_length _ _ _ h])] at hr
  exact hr

theorem readWord_frameOf_magic (h : samples.length = 1024) :
    (s.writeBytes fbBase (frameOf magic samples x)).readWord (fbBase + 0) = magic := by
  rw [State.readWord_writeBytes _ _ _ _ (by rw [frameOf_length _ _ _ h]; decide), frameOf_eq, List.drop_zero,
    List.take_append_of_le_length (by rw [wordBytes_length]), List.take_of_length_le (by rw [wordBytes_length]), word_of_wordBytes]

theorem readWord_frameOf_crc (h : samples.length = 1024) :
    (s.writeBytes fbBase (frameOf magic samples x)).readWord (fbBase + 4132) = crc32 (packSpan magic samples x) :=
  State.readWord_writeBytes_segment s (packSpan magic samples x) _ [] (by rw [frameOf, List.append_nil])
    (packSpan_length _ _ _ h).symm

theorem readBytes_frameOf_samples (h : samples.length = 1024) :
    (s.writeBytes fbBase (frameOf magic samples x)).readBytes (fbBase + 4) 4096 = wordsBytes samples :=
  State.readBytes_writeBytes_segment s (wordBytes magic) (wordsBytes samples) _ (frameOf_eq magic samples x)
    (by rw [wordBytes_length]) (by rw [wordsBytes_length, h])

/-- Every field register is read back from the bytes of the frame (R93, R155). -/
theorem unpackFields_frameOf (h : samples.length = 1024) :
    (s.writeBytes fbBase (frameOf magic samples x)).unpackFields = x := by
  have hl : (wordBytes magic ++ wordsBytes samples).length = 4100 := by
    rw [List.length_append, wordBytes_length, wordsBytes_length, h]
  have e := frameOf_eq magic samples x
  rw [← List.append_assoc] at e
  generalize hb : frameOf magic samples x = bs at e ⊢
  generalize wordBytes magic ++ wordsBytes samples = pre at hl e
  generalize crc32 (packSpan magic samples x) = c at e
  obtain ⟨fl, r1, tp, vs, al, ve, vb, bc, r2, at', w0, w1, w2, w3⟩ := x
  simp only [frameTail, FieldRegs.telemetry, List.cons_append, List.nil_append] at e
  have word : ∀ (mid : List Byte) (w : Word) (post : List Byte) (o : Nat), o = 4100 + mid.length →
      bs = pre ++ (mid ++ (wordBytes w ++ post)) → (s.writeBytes fbBase bs).fbWord o = w := fun mid w post o ho he =>
    State.readWord_writeBytes_segment s (pre ++ mid) w post (by rw [he, List.append_assoc]) (by rw [List.length_append, hl, ho])
  have byte : ∀ (mid : List Byte) (b : Byte) (post : List Byte) (o : Nat), o = 4100 + mid.length →
      bs = pre ++ (mid ++ (b :: post)) → (s.writeBytes fbBase bs).fb o = b := fun mid b post o ho he =>
    State.readByte_writeBytes_segment s (pre ++ mid) b post (by rw [he, List.append_assoc]) (by rw [List.length_append, hl, ho])
  have q0 := word [] fl _ 4100 rfl (by rw [e, List.nil_append])
  have p1 := byte (wordBytes fl) r1 _ 4104 (by simp) e
  have p2 := byte (wordBytes fl ++ [r1]) tp _ 4105 (by simp) (by rw [e]; simp; rfl)
  have p3 := byte (wordBytes fl ++ [r1, tp]) vs _ 4106 (by simp) (by rw [e]; simp; rfl)
  have p4 := byte (wordBytes fl ++ [r1, tp, vs]) al _ 4107 (by simp) (by rw [e]; simp; rfl)
  have p5 := byte (wordBytes fl ++ [r1, tp, vs, al]) ve _ 4108 (by simp) (by rw [e]; simp; rfl)
  have p6 := byte (wordBytes fl ++ [r1, tp, vs, al, ve]) vb _ 4109 (by simp) (by rw [e]; simp; rfl)
  have p7 := byte (wordBytes fl ++ [r1, tp, vs, al, ve, vb]) bc _ 4110 (by simp) (by rw [e]; simp; rfl)
  have p8 := byte (wordBytes fl ++ [r1, tp, vs, al, ve, vb, bc]) r2 _ 4111 (by simp) (by rw [e]; simp; rfl)
  have q9 := word (wordBytes fl ++ [r1, tp, vs, al, ve, vb, bc, r2]) at' _ 4112 (by simp) (by rw [e]; simp; rfl)
  have qa := word (wordBytes fl ++ [r1, tp, vs, al, ve, vb, bc, r2] ++ wordBytes at') w0 _ 4116 (by simp)
    (by rw [e]; simp; rfl)
  have qb := word (wordBytes fl ++ [r1, tp, vs, al, ve, vb, bc, r2] ++ wordBytes at' ++ wordBytes w0) w1 _ 4120 (by simp)
    (by rw [e]; simp; rfl)
  have qc := word (wordBytes fl ++ [r1, tp, vs, al, ve, vb, bc, r2] ++ wordBytes at' ++ wordBytes w0 ++ wordBytes w1) w2 _ 4124
    (by simp) (by rw [e]; simp; rfl)
  have qd := word (wordBytes fl ++ [r1, tp, vs, al, ve, vb, bc, r2] ++ wordBytes at' ++ wordBytes w0 ++ wordBytes w1 ++ wordBytes w2)
    w3 _ 4128 (by simp) (by rw [e]; simp; rfl)
  simp only [State.unpackFields, q0, p1, p2, p3, p4, p5, p6, p7, p8, q9, qa, qb, qc, qd]

end FrameOf

/-! The packed frame of a state. -/

theorem State.packFrame_mem_eq (s : State) :
    s.packFrame.mem = (s.writeBytes fbBase (frameOf s.config.magic s.samples s.x)).mem := by
  rw [State.packFrame_mem, State.writeBytes_mem, frameOf]

theorem State.packFrame_readBytes (s : State) (a n : Nat) :
    s.packFrame.readBytes a n = (s.writeBytes fbBase (frameOf s.config.magic s.samples s.x)).readBytes a n :=
  State.readBytes_congr s.packFrame_mem_eq (by rw [State.packFrame_resets, State.writeBytes_resets]) a n

theorem State.packFrame_readWord (s : State) (a : Nat) :
    s.packFrame.readWord a = (s.writeBytes fbBase (frameOf s.config.magic s.samples s.x)).readWord a :=
  State.readWord_congr s.packFrame_mem_eq (by rw [State.packFrame_resets, State.writeBytes_resets]) a

theorem State.packFrame_readByte (s : State) (a : Nat) :
    s.packFrame.readByte a = (s.writeBytes fbBase (frameOf s.config.magic s.samples s.x)).readByte a :=
  State.readByte_congr s.packFrame_mem_eq (by rw [State.packFrame_resets, State.writeBytes_resets]) a

/-- Outside the frame buffer ENCODE leaves every byte. -/
theorem State.packFrame_readByte_outside (s : State) {a : Nat} (h : a < fbBase ∨ fbBase + frameBytes ≤ a) :
    s.packFrame.readByte a = s.readByte a := by
  rw [State.packFrame_readByte, State.readByte_writeBytes_outside s (by rw [frameOf_length _ _ _ s.samples_length]; exact h)]

theorem State.packFrame_frame (s : State) :
    s.packFrame.readBytes fbBase frameBytes = frameOf s.config.magic s.samples s.x := by
  have h := State.readBytes_writeBytes_all s fbBase (frameOf s.config.magic s.samples s.x)
  rw [frameOf_length _ _ _ s.samples_length] at h
  rw [State.packFrame_readBytes, h]

theorem State.packFrame_span (s : State) :
    s.packFrame.readBytes fbBase crcSpan = packSpan s.config.magic s.samples s.x := by
  rw [State.packFrame_readBytes, readBytes_frameOf_span _ _ _ _ s.samples_length]

theorem State.packFrame_frameCrc (s : State) : s.packFrame.frameCrc = s.packFrame.crcCalc := by
  rw [State.frameCrc, State.packFrame_span, State.packFrame_crcCalc]

theorem State.packFrame_magic (s : State) : s.packFrame.fbWord 0 = s.config.magic := by
  rw [State.fbWord, State.packFrame_readWord, readWord_frameOf_magic _ _ _ _ s.samples_length]

theorem State.packFrame_crc (s : State) : s.packFrame.fbWord 4132 = s.packFrame.crcCalc := by
  rw [State.fbWord, State.packFrame_readWord, readWord_frameOf_crc _ _ _ _ s.samples_length, State.packFrame_crcCalc]

/-- Validation reads only the frame buffer and the configuration. -/
theorem State.frameValid_iff (s : State) :
    s.frameValid = true ↔ s.fbWord 0 = s.config.magic ∧ s.fbWord 4132 = s.frameCrc := by
  simp [State.frameValid, State.badMagic, State.badCrc]

/-- The frame ENCODE packs is valid (R99, R155). -/
theorem State.packFrame_frameValid (s : State) : s.packFrame.frameValid = true := by
  rw [State.frameValid_iff, State.packFrame_magic, State.packFrame_crc, State.packFrame_frameCrc, State.config, State.config,
    State.packFrame_cfg]
  exact ⟨rfl, rfl⟩

theorem State.packFrame_sampleBytes (s : State) : s.packFrame.readBytes (fbBase + 4) 4096 = wordsBytes s.samples := by
  rw [State.packFrame_readBytes, readBytes_frameOf_samples _ _ _ _ s.samples_length]

theorem State.packFrame_sample (s : State) (k : Nat) (h : k < 1024) : s.packFrame.fbWord (4 + 4 * k) = s.sb k := by
  have hs := State.readBytes_slice s.packFrame (fbBase + 4) 4096 (4 * k) 4 (by omega)
  rw [State.packFrame_sampleBytes, wordsBytes_slice _ k (by simpa using h)] at hs
  rw [State.fbWord, State.readWord, ← Nat.add_assoc, ← hs, word_of_wordBytes]
  simp [State.samples]

theorem State.unpackFields_congr {s t : State} (hm : t.mem = s.mem) (hr : t.resets = s.resets) :
    t.unpackFields = s.unpackFields := by
  simp only [State.unpackFields, State.fbWord, State.fb, State.readWord_congr hm hr, State.readByte_congr hm hr]

/-- Every field register is read back from the packed frame (R155). -/
theorem State.packFrame_unpackFields (s : State) : s.packFrame.unpackFields = s.x := by
  rw [State.unpackFields_congr s.packFrame_mem_eq (by rw [State.packFrame_resets, State.writeBytes_resets]),
    unpackFields_frameOf _ _ _ _ s.samples_length]

/-- Every sample is read back from the packed frame (R155). -/
theorem State.packFrame_unpackSamples (s : State) : s.packFrame.unpackSamples = s.samples := by
  simp only [State.unpackSamples, State.samples]
  exact List.map_congr_left fun k hk => State.packFrame_sample s k (List.mem_range.mp hk)

/-- DECODE's unpacking puts every sample where R24 says. -/
theorem State.unpackFrame_sb (s : State) (k : Nat) (h : k < 1024) : s.unpackFrame.sb k = s.fbWord (4 + 4 * k) := by
  have hc : s.unpackFrame.sb k = (s.writeBytes sbBase (wordsBytes s.unpackSamples)).sb k :=
    State.readWord_congr (by rw [State.unpackFrame_mem]) rfl _
  rw [hc, State.sb, State.readWord_writeWords _ _ _ k (by simpa using h)]
  simp [State.unpackSamples]

/-- Outside the sample buffer DECODE's unpacking leaves every byte. -/
theorem State.unpackFrame_readByte_outside (s : State) {a : Nat} (h : a < sbBase ∨ sbBase + 4096 ≤ a) :
    s.unpackFrame.readByte a = s.readByte a := by
  have hc : s.unpackFrame.readByte a = (s.writeBytes sbBase (wordsBytes s.unpackSamples)).readByte a :=
    State.readByte_congr (by rw [State.unpackFrame_mem]) rfl a
  rw [hc, State.readByte_writeBytes_outside s (by simpa using h)]

/-- What a validation does: one of two outcomes, by the validity of the frame (R153, R154). -/
theorem State.validateThen_cases (s : State) (k : State → State) :
    (s.frameValid = true ∧ s.validateThen k = k { s with crcCalc := s.frameCrc }) ∨
    (s.frameValid = false ∧ s.validateThen k =
      { s with crcCalc := s.frameCrc, status := errorStatus (.frameValidationFailure s.badMagic s.badCrc) }) := by
  cases h : s.frameValid
  · exact .inr ⟨rfl, by simp [State.validateThen, h, State.raise]⟩
  · exact .inl ⟨rfl, by simp [State.validateThen, h]⟩

end Sys2Proof.Machine
end

