-- ==== Sys2Proof/Laws/Ops.lean ====
section
/-! SUPPORT. What each shared operation can do, once, and what no operation changes. -/

namespace Sys2Proof.Machine

/-! The state an operation leaves. Every operation answers a next state (41_frame_ops.md R150). -/

/-- The next state of an operation. -/
def State.after (s : State) : Instr → State
  | .nop => s.succeed
  | .encode => if s.nsamp = 512 then s.packFrame.succeed else s.raise .structuralPrecondition
  | .decode => s.validateThen (fun t => t.unpackFrame.succeed)
  | .check => s.validateThen (fun t => t.succeed)
  | .cmdInit => s.withCommandUnit State.cmdInit
  | .cmdSend => s.withCommandUnit State.cmdSend
  | .cmdIdle => s.withCommandUnit State.cmdIdle
  | .cmdSetband => s.withCommandUnit State.cmdSetband
  | .bandidx => s.withCommandUnit State.bandidx

theorem exec_eq_after (i : Instr) (s : State) : exec i s = .next (s.after i) := by cases i <;> rfl

theorem State.withCommandUnit_present {s : State} (h : s.config.cmdPresent = true) (op : State → State) :
    s.withCommandUnit op = op s := by simp [State.withCommandUnit, h]

theorem State.withCommandUnit_absent {s : State} (h : s.config.cmdPresent = false) (op : State → State) :
    s.withCommandUnit op = s.raise .illegalOp := by simp [State.withCommandUnit, h]

/-! The bus port. -/

@[simp] theorem State.openAnswer_scripted (s : State) (a : Bool) (as : List Bool) (h : s.openAnswers = a :: as) :
    s.openAnswer = a := by simp [State.openAnswer, h]

@[simp] theorem State.writeAnswer_scripted (s : State) (a : Bool) (as : List Bool) (h : s.writeAnswers = a :: as) :
    s.writeAnswer = a := by simp [State.writeAnswer, h]

/-- One `BusWrite`: answered success and on with `k`, or answered failure and TransportWriteFailure. -/
theorem State.busWriteThen_cases (s : State) (bs : List Byte) (k : State → State) :
    (s.writeAnswer = true ∧ s.busWriteThen bs k = k (s.busWrite bs)) ∨
    (s.writeAnswer = false ∧ s.busWriteThen bs k = (s.busWrite bs).raise .transportWriteFailure) := by
  cases h : s.writeAnswer
  · exact .inr ⟨rfl, by simp [State.busWriteThen, h]⟩
  · exact .inl ⟨rfl, by simp [State.busWriteThen, h]⟩

/-- The inner send: not open, refused by the environment, or sent and recorded (R183). -/
theorem State.send_cases (s : State) (r : Nat) (v : Word) :
    (s.openFlag = false ∧ s.send r v = s.raise .transportWriteFailure) ∨
    (s.openFlag = true ∧ s.writeAnswer = false ∧
      s.send r v = (s.busWrite (wireCmd r v)).raise .transportWriteFailure) ∨
    (s.openFlag = true ∧ s.writeAnswer = true ∧
      s.send r v = ((s.busWrite (wireCmd r v)).setShadow r v).succeed) := by
  cases ho : s.openFlag
  · exact .inl ⟨rfl, by simp [State.send, State.ifOpen, ho]⟩
  · rcases s.busWriteThen_cases (wireCmd r v) (fun t => (t.setShadow r v).succeed) with ⟨ha, he⟩ | ⟨ha, he⟩
    · exact .inr (.inr ⟨rfl, ha, by simp [State.send, State.ifOpen, ho, he]⟩)
    · exact .inr (.inl ⟨rfl, ha, by simp [State.send, State.ifOpen, ho, he]⟩)

/-- The burst: sent or refused by the environment (R184, R186). -/
theorem State.sendBurst_cases (s : State) :
    (s.writeAnswer = true ∧ s.sendBurst = (s.busWrite (burstBytes s.config s.shadowTable)).succeed) ∨
    (s.writeAnswer = false ∧
      s.sendBurst = (s.busWrite (burstBytes s.config s.shadowTable)).raise .transportWriteFailure) :=
  s.busWriteThen_cases _ _

/-- CMD_INIT's state after the request to open (R184). -/
def State.opened (s : State) : State := { s.busOpen with openFlag := s.openAnswer }

/-- The pseudocode of CMD_INIT: open refused, burst refused, or all done (R184). -/
theorem State.cmdInit_cases (s : State) :
    (s.openAnswer = false ∧ s.cmdInit = s.opened.raise .transportOpenFailure) ∨
    (s.openAnswer = true ∧ s.opened.loadDefaults.writeAnswer = false ∧
      s.cmdInit = (s.opened.loadDefaults.busWrite
        (burstBytes s.config s.opened.loadDefaults.shadowTable)).raise .transportWriteFailure) ∨
    (s.openAnswer = true ∧ s.opened.loadDefaults.writeAnswer = true ∧
      s.cmdInit = (s.opened.loadDefaults.busWrite (burstBytes s.config s.opened.loadDefaults.shadowTable)).succeed) := by
  cases h : s.openAnswer
  · exact .inl ⟨rfl, by simp [State.cmdInit, State.opened, h]⟩
  · have he : s.cmdInit = s.opened.loadDefaults.sendBurst := by simp [State.cmdInit, State.opened, h]
    rcases s.opened.loadDefaults.sendBurst_cases with ⟨ha, hb⟩ | ⟨ha, hb⟩
    · exact .inr (.inr ⟨rfl, ha, he.trans hb⟩)
    · exact .inr (.inl ⟨rfl, ha, he.trans hb⟩)

/-- The pseudocode of CMD_IDLE: not open, refused, or sent (R186). -/
theorem State.cmdIdle_cases (s : State) :
    (s.openFlag = false ∧ s.cmdIdle = s.raise .transportWriteFailure) ∨
    (s.openFlag = true ∧ s.writeAnswer = false ∧
      s.cmdIdle = (s.busWrite (burstBytes s.config s.shadowTable)).raise .transportWriteFailure) ∨
    (s.openFlag = true ∧ s.writeAnswer = true ∧
      s.cmdIdle = (s.busWrite (burstBytes s.config s.shadowTable)).succeed) := by
  cases ho : s.openFlag
  · exact .inl ⟨rfl, by simp [State.cmdIdle, State.ifOpen, ho]⟩
  · rcases s.sendBurst_cases with ⟨ha, hb⟩ | ⟨ha, hb⟩
    · exact .inr (.inr ⟨rfl, ha, by simp [State.cmdIdle, State.ifOpen, ho, hb]⟩)
    · exact .inr (.inl ⟨rfl, ha, by simp [State.cmdIdle, State.ifOpen, ho, hb]⟩)

/-- The shadow table after CMD_INIT's filling (R184). -/
theorem State.shadow_loadDefaults (s : State) (r : Nat) (h : r ≤ s.config.nReg) :
    s.loadDefaults.shadow r = defaultWord s.config r :=
  State.shadow_fillShadow _ _ r h

/-- Outside the shadow table CMD_INIT's filling leaves every byte. -/
theorem State.readByte_loadDefaults_outside (s : State) {a : Nat}
    (h : a < shadowBase ∨ shadowBase + 4 * (s.config.nReg + 1) ≤ a) : s.loadDefaults.readByte a = s.readByte a := by
  have e1 : s.loadDefaults.readByte a = (s.fillShadow (fun _ => 0)).readByte a :=
    State.readByte_writeBytes_outside _ (by simpa using h)
  have e2 : (s.fillShadow (fun _ => 0)).readByte a = s.readByte a :=
    State.readByte_writeBytes_outside _ (by simpa using h)
  exact e1.trans e2

/-! What no operation changes: the configuration, the pending inputs, the host's history and the number of resets. -/

/-- The fields no operation touches. -/
def SameOutside (s t : State) : Prop :=
  t.cfg = s.cfg ∧ t.port = s.port ∧ t.hostLog = s.hostLog ∧ t.resets = s.resets ∧
  t.cmdReg = s.cmdReg ∧ t.cmdVal = s.cmdVal ∧ t.cmdFreq = s.cmdFreq

theorem State.after_sameOutside (s : State) (i : Instr) : SameOutside s (s.after i) := by
  have hv : ∀ k : State → State, (∀ t, SameOutside t (k t)) → SameOutside s (s.validateThen k) := by
    intro k hk
    rcases s.validateThen_cases k with ⟨_, he⟩ | ⟨_, he⟩
    · rw [he]
      obtain ⟨h1, h2, h3, h4, h5, h6, h7⟩ := hk { s with crcCalc := s.frameCrc }
      exact ⟨h1, h2, h3, h4, h5, h6, h7⟩
    · rw [he]; exact ⟨rfl, rfl, rfl, rfl, rfl, rfl, rfl⟩
  have hu : ∀ op : State → State, SameOutside s (op s) → SameOutside s (s.withCommandUnit op) := by
    intro op h
    cases hp : s.config.cmdPresent
    · rw [State.withCommandUnit_absent hp]; exact ⟨rfl, rfl, rfl, rfl, rfl, rfl, rfl⟩
    · rw [State.withCommandUnit_present hp]; exact h
  have hs : ∀ (t : State) (r : Nat) (v : Word), SameOutside t (t.send r v) := by
    intro t r v
    rcases t.send_cases r v with ⟨_, he⟩ | ⟨_, _, he⟩ | ⟨_, _, he⟩ <;> rw [he] <;> exact ⟨rfl, rfl, rfl, rfl, rfl, rfl, rfl⟩
  cases i with
  | nop => exact ⟨rfl, rfl, rfl, rfl, rfl, rfl, rfl⟩
  | encode => simp only [State.after]; split <;> exact ⟨rfl, rfl, rfl, rfl, rfl, rfl, rfl⟩
  | decode => exact hv _ fun t => ⟨rfl, rfl, rfl, rfl, rfl, rfl, rfl⟩
  | check => exact hv _ fun t => ⟨rfl, rfl, rfl, rfl, rfl, rfl, rfl⟩
  | cmdInit =>
    refine hu _ ?_
    rcases s.cmdInit_cases with ⟨_, he⟩ | ⟨_, _, he⟩ | ⟨_, _, he⟩ <;> rw [he] <;> exact ⟨rfl, rfl, rfl, rfl, rfl, rfl, rfl⟩
  | cmdSend =>
    refine hu _ ?_
    simp only [State.cmdSend]
    split
    · exact ⟨rfl, rfl, rfl, rfl, rfl, rfl, rfl⟩
    · exact hs s _ _
  | cmdIdle =>
    refine hu _ ?_
    rcases s.cmdIdle_cases with ⟨_, he⟩ | ⟨_, _, he⟩ | ⟨_, _, he⟩ <;> rw [he] <;> exact ⟨rfl, rfl, rfl, rfl, rfl, rfl, rfl⟩
  | cmdSetband =>
    refine hu _ ?_
    simp only [State.cmdSetband]
    split
    · exact ⟨rfl, rfl, rfl, rfl, rfl, rfl, rfl⟩
    · obtain ⟨h1, h2, h3, h4, h5, h6, h7⟩ :=
        hs { s with curBand := s.bandOfFreq } s.config.bandReg (bandArgument s.bandOfFreq)
      exact ⟨h1, h2, h3, h4, h5, h6, h7⟩
  | bandidx => exact hu _ ⟨rfl, rfl, rfl, rfl, rfl, rfl, rfl⟩

end Sys2Proof.Machine
end

