-- ==== Sys2Proof/Safety.lean ====
section
/-! DEFINITION. What counts as a safe state: the invariant of the machine, in the terms the statements use. -/

namespace Sys2Proof.Machine

/-- The words `STATUS[11:0]` can hold: 0 before any operation, else one of R221's. -/
def legalStatus : List (BitVec 12) := [0x000, 0x003, 0x011, 0x021, 0x131, 0x231, 0x331, 0x041, 0x051]

/-- The window addresses of the shadow table's bytes (R34, R61). -/
def shadowByte (c : Cfg) (a : Nat) : Prop := 0x10000 ≤ a ∧ a < 0x10000 + 4 * (c.nReg + 1)

/-- The window addresses that a buffer backs: SB, FB and, with the command unit, SHADOW (R61, R39). -/
def bufferByte (c : Cfg) (a : Nat) : Prop :=
  (0x1000 ≤ a ∧ a < 0x2000) ∨ (0x2000 ≤ a ∧ a < 0x3028) ∨ (c.cmdPresent = true ∧ shadowByte c a)

/-- The invariant of the machine: it holds after reset and every step keeps it. -/
structure State.Inv (s : State) : Prop where
  /-- The memory has its canonical form. -/
  memCanonical  : s.mem.wf = true
  /-- Only bytes of the buffers are ever written. -/
  memBacked     : ∀ cell ∈ s.mem, bufferByte s.config cell.1
  /-- STATUS holds one of the words of R221, or its reset value. -/
  statusLegal   : s.status ∈ legalStatus
  /-- "Its value is always in 0..22" (R33). -/
  curBandLegal  : s.curBand.toNat ≤ 22
  /-- BAND_OUT holds a band index (R32, R180). -/
  bandOutLegal  : s.bandOut.toNat ≤ 22
  /-- "Whenever `OPEN` = 1 every word of `SHADOW` is defined" (R189(1)): each of its bytes has been written since reset. -/
  shadowDefined : s.openFlag = true → ∀ a, shadowByte s.config a → s.mem.read a ≠ none
  /-- Without the command unit its registers stay at their reset values (R39). -/
  unitAbsent    : s.config.cmdPresent = false →
    s.openFlag = false ∧ s.cmdReg = 0 ∧ s.cmdVal = 0 ∧ s.cmdFreq = 0 ∧ s.bandOut = 0 ∧ s.curBand = 0

end Sys2Proof.Machine
end

