-- ==== Sys2Proof/Certificates/Slice0/Obligations.lean ====
section
/-! DEFINITION. The statements for the provers, from the numbered rules of spec/. A next state written `{ s with ... }` says that every
field not named is unchanged; `f := t.f` in it leaves the field `f` to the other clauses. -/

open Sys2Proof Sys2Proof.Machine

/-! Encodings of the OP word (30_encoding.md R90 to R92). -/

/-- R90, R91: the nine rows of the opcode map, word by word. -/
def Obligations.OpWordsOfTheTableDecode : Prop :=
  decode 0x00000000 = .ok .nop ∧ decode 0x00000001 = .ok .encode ∧ decode 0x00000002 = .ok .decode ∧
  decode 0x00000003 = .ok .check ∧ decode 0x00000010 = .ok .cmdInit ∧ decode 0x00000011 = .ok .cmdSend ∧
  decode 0x00000012 = .ok .cmdIdle ∧ decode 0x00000013 = .ok .cmdSetband ∧ decode 0x00000014 = .ok .bandidx

/-- R91: "An OP word `w` selects an operation exactly when `w[31:8] = 0` and `w[7:0]` is one of" the nine opcodes, over all 2^32 words;
and the encoder gives that word. -/
def Obligations.DecodeSelectsExactlyTheTable : Prop :=
  ∀ (w : Word) (i : Instr),
    (decode w = .ok i ↔
      w.extractLsb' 8 24 = 0 ∧
      (w.extractLsb' 0 8, i) ∈ [((0x00 : Byte), Instr.nop), (0x01, .encode), (0x02, .decode), (0x03, .check), (0x10, .cmdInit),
        (0x11, .cmdSend), (0x12, .cmdIdle), (0x13, .cmdSetband), (0x14, .bandidx)]) ∧
    (decode w = .ok i ↔ w = encode i)

/-- R92 at the port: a write of an OP word that selects no operation, or selects a command operation when `CMD_PRESENT` is false, "completes
with error IllegalOp ... and changes nothing but `STATUS`" (the port's own queue and history aside). -/
def Obligations.IllegalOpWordChangesOnlyStatus : Prop :=
  ∀ (s : State) (v : Word) (rest : List Input), s.port = .hostWrite 0 v :: rest →
    ((v.extractLsb' 8 24 ≠ 0 ∨
        v.extractLsb' 0 8 ∉ [(0x00 : Byte), 0x01, 0x02, 0x03, 0x10, 0x11, 0x12, 0x13, 0x14]) ∨
      (s.config.cmdPresent = false ∧ v ∈ [(0x10 : Word), 0x11, 0x12, 0x13, 0x14])) →
    step s = .next { s with
      port := rest, status := 0x051, hostLog := s.hostLog ++ [{ access := .hostWrite 0 v, response := .writeOk }] }

/-- R92, R39 at the operation: without the command unit each of its five operations raises IllegalOp. -/
def Obligations.CommandUnitAbsentIsIllegal : Prop :=
  ∀ (s : State) (i : Instr), s.config.cmdPresent = false → i ∈ [Instr.cmdInit, .cmdSend, .cmdIdle, .cmdSetband, .bandidx] →
    exec i s = .next { s with status := 0x051 }

/-! Steps. -/

/-- R26, R150: a write to `OP` of a word that decodes to `i` runs `i`, inside the step of that write; the write itself answers `Ok`. -/
def Obligations.StepRunsTheDecodedOperation : Prop :=
  ∀ (s : State) (v : Word) (rest : List Input) (i : Instr), s.port = .hostWrite 0 v :: rest → decode v = .ok i →
    ∃ t, exec i { s with port := rest } = .next t ∧
      step s = .next { t with hostLog := t.hostLog ++ [{ access := .hostWrite 0 v, response := .writeOk }] }

/-- R251: with no host access pending the FFM waits. -/
def Obligations.WaitingStepKeepsTheState : Prop :=
  ∀ s : State, s.port = [] → step s = .next s

/-- R228, R150, R60: no step stops the machine, whatever the state and the input. That an operation with a bus request comes to its end is presumed:
R230 leaves it incomplete for ever when the environment never answers, and the model takes the answer as always arriving (D31, log entry 7: PRESUMED,
unsafe for this statement). That nothing faults is the model's reading of R228, R221 and R60 (log entry 19: DEDUCED). -/
def Obligations.EveryStepAnswersANextState : Prop :=
  (∀ s : State, ∃ t, step s = .next t) ∧ (∀ (i : Instr) (s : State), ∃ t, exec i s = .next t)

/-- R38: the registers after reset. The model's own fields are not claimed. -/
def Obligations.ResetLeavesTheStatedValues : Prop :=
  State.reset.x = {
    flags := 0, rsv1 := 0, txpwr := 0, vswr := 0, alc := 0, vext := 0, vbat := 0, batcap := 0, rsv2 := 0, atu := 0,
    rsv3_0 := 0, rsv3_1 := 0, rsv3_2 := 0, rsv3_3 := 0 } ∧
  State.reset.statusWord = 0x00000000 ∧ State.reset.nsamp = 0 ∧ State.reset.crcCalc = 0 ∧ State.reset.cmdReg = 0 ∧
  State.reset.cmdVal = 0 ∧ State.reset.cmdFreq = 0 ∧ State.reset.bandOut = 0 ∧ State.reset.curBand = 0 ∧
  State.reset.openFlag = false

/-- R250: a reset event puts every register at its value of R38 from any state, leaves the buffers unspecified (each byte the draw of this
reset, log entry 4), keeps the configuration, and makes no bus request. -/
def Obligations.ResetEventRestoresTheResetValues : Prop :=
  ∀ (s : State) (rest : List Input), s.port = .reset :: rest →
    ∃ t, step s = .next t ∧ t.x = FieldRegs.zero ∧ t.statusWord = 0 ∧ t.nsamp = 0 ∧ t.crcCalc = 0 ∧ t.cmdReg = 0 ∧ t.cmdVal = 0 ∧
      t.cmdFreq = 0 ∧ t.bandOut = 0 ∧ t.curBand = 0 ∧ t.openFlag = false ∧ t.cfg = s.cfg ∧ t.busLog = s.busLog ∧
      t.hostLog = s.hostLog ∧ t.port = rest ∧ ∀ a, t.readByte a = Config.powerOnByte (s.resets + 1) a

/-- R10 with R8 and R181: a configuration that breaks one of their constraints is refused, and so is one whose CRC parameters are not the values R9
decides (the model's choice, log entry 14); a well-formed one starts the machine in its reset state. -/
def Obligations.IllFormedConfigurationIsRefused : Prop :=
  (∀ c : Cfg,
    (16383 < c.nReg ∨ c.nReg < c.bandReg ∨ c.crc ≠ CrcParams.decided ∨
      (∃ pre a b post, c.bandLadder = pre ++ a :: b :: post ∧
        (b.bound < a.bound ∨ (b.bound = a.bound ∧ (a.inclusive = true ∨ b.inclusive = false)))) ∨
      (∃ f : Word, f < 1800000 ∧ bandIndex c f ≠ 0) ∨ (∃ f : Word, 1800000 ≤ f ∧ f ≤ 2000000 ∧ bandIndex c f ≠ 1) ∨
      bandIndex c 2000001 ≠ 2 ∨ bandIndex c 21449999 ≠ 15 ∨ bandIndex c 54000001 ≠ 22) →
    State.configure c = .refused .illFormedConfiguration) ∧
  (∀ c : WfCfg, State.configure c.raw = .next (State.initial c))

/-! The host port (20_memory.md). -/

/-- R62, R63 with the map of R61: a misaligned, out-of-window or unmapped access "returns `SlaveError` and changes no state", read or write. -/
def Obligations.UnmappedAccessIsSlaveError : Prop :=
  ∀ (s : State) (off : Nat) (v : Word) (rest : List Input),
    (off % 4 ≠ 0 ∨ 0x20000 ≤ off ∨ (0x48 ≤ off ∧ off < 0x80) ∨ (0x94 ≤ off ∧ off < 0x1000) ∨ (0x3028 ≤ off ∧ off < 0x10000) ∨
      0x10000 + 4 * s.config.nReg + 4 ≤ off ∧ 0x10000 ≤ off ∨
      (s.config.cmdPresent = false ∧ ((0x80 ≤ off ∧ off < 0x94) ∨ 0x10000 ≤ off))) →
    (s.port = .hostRead off :: rest → step s = .next { s with
      port := rest, hostLog := s.hostLog ++ [{ access := .hostRead off, response := .slaveError }] }) ∧
    (s.port = .hostWrite off v :: rest → step s = .next { s with
      port := rest, hostLog := s.hostLog ++ [{ access := .hostWrite off v, response := .slaveError }] })

/-- R61, R26 to R34: what a host read returns at every mapped offset. -/
def Obligations.HostReadAtEveryMappedOffset : Prop :=
  ∀ s : State,
    s.hostRead 0x0 = .readOk 0 ∧ s.hostRead 0x4 = .readOk s.statusWord ∧ s.hostRead 0x8 = .readOk s.nsamp ∧
    s.hostRead 0xC = .readOk s.crcCalc ∧ s.hostRead 0x10 = .readOk s.x.flags ∧
    s.hostRead 0x14 = .readOk (0#24 ++ s.x.rsv1) ∧ s.hostRead 0x18 = .readOk (0#24 ++ s.x.txpwr) ∧
    s.hostRead 0x1C = .readOk (0#24 ++ s.x.vswr) ∧ s.hostRead 0x20 = .readOk (0#24 ++ s.x.alc) ∧
    s.hostRead 0x24 = .readOk (0#24 ++ s.x.vext) ∧ s.hostRead 0x28 = .readOk (0#24 ++ s.x.vbat) ∧
    s.hostRead 0x2C = .readOk (0#24 ++ s.x.batcap) ∧ s.hostRead 0x30 = .readOk (0#24 ++ s.x.rsv2) ∧
    s.hostRead 0x34 = .readOk s.x.atu ∧ s.hostRead 0x38 = .readOk s.x.rsv3_0 ∧ s.hostRead 0x3C = .readOk s.x.rsv3_1 ∧
    s.hostRead 0x40 = .readOk s.x.rsv3_2 ∧ s.hostRead 0x44 = .readOk s.x.rsv3_3 ∧
    (s.config.cmdPresent = true →
      s.hostRead 0x80 = .readOk s.cmdReg ∧ s.hostRead 0x84 = .readOk s.cmdVal ∧ s.hostRead 0x88 = .readOk s.cmdFreq ∧
      s.hostRead 0x8C = .readOk (0#24 ++ s.bandOut) ∧ s.hostRead 0x90 = .readOk (0#24 ++ s.curBand) ∧
      ∀ r, r ≤ s.config.nReg → s.hostRead (0x10000 + 4 * r) = .readOk (s.shadow r)) ∧
    (∀ k, k < 1024 → s.hostRead (0x1000 + 4 * k) = .readOk (s.sb k)) ∧
    (∀ w, w < 1034 → s.hostRead (0x2000 + 4 * w) = .readOk (s.fbWord (4 * w)))

/-- R76: a host read changes no state of the FFM, and reading again returns the same. -/
def Obligations.HostReadChangesNothing : Prop :=
  ∀ (s : State) (off : Nat) (rest : List Input), s.port = .hostRead off :: rest →
    ∃ t, step s = .next t ∧
      t = { s with port := rest, hostLog := s.hostLog ++ [{ access := .hostRead off, response := s.hostRead off }] } ∧
      ∀ off', t.hostRead off' = s.hostRead off'

/-- R64: writes to the read-only locations answer `Ok` and change no state; a read of `OP` answers `Ok(0)`; an 8-bit register is read
zero-extended. -/
def Obligations.ReadOnlyLocationsIgnoreWrites : Prop :=
  (∀ (s : State) (off : Nat) (v : Word) (rest : List Input), s.port = .hostWrite off v :: rest →
    (off = 0x4 ∨ off = 0xC ∨ (s.config.cmdPresent = true ∧
      (off = 0x8C ∨ off = 0x90 ∨ ∃ r, r ≤ s.config.nReg ∧ off = 0x10000 + 4 * r))) →
    step s = .next { s with
      port := rest, hostLog := s.hostLog ++ [{ access := .hostWrite off v, response := .writeOk }] }) ∧
  (∀ (s : State) (rest : List Input), s.port = .hostRead 0 :: rest →
    step s = .next { s with port := rest, hostLog := s.hostLog ++ [{ access := .hostRead 0, response := .readOk 0 }] }) ∧
  (∀ s : State,
    s.hostRead 0x14 = .readOk (0#24 ++ s.x.rsv1) ∧ s.hostRead 0x18 = .readOk (0#24 ++ s.x.txpwr) ∧
    s.hostRead 0x1C = .readOk (0#24 ++ s.x.vswr) ∧ s.hostRead 0x20 = .readOk (0#24 ++ s.x.alc) ∧
    s.hostRead 0x24 = .readOk (0#24 ++ s.x.vext) ∧ s.hostRead 0x28 = .readOk (0#24 ++ s.x.vbat) ∧
    s.hostRead 0x2C = .readOk (0#24 ++ s.x.batcap) ∧ s.hostRead 0x30 = .readOk (0#24 ++ s.x.rsv2) ∧
    (s.config.cmdPresent = true →
      s.hostRead 0x8C = .readOk (0#24 ++ s.bandOut) ∧ s.hostRead 0x90 = .readOk (0#24 ++ s.curBand)))

/-- R22: a host write of field register `i` (numbered as in 10_state.md) keeps all 32 bits, or bits 7:0 of an 8-bit one; every other field register and everything
else keeps its value. -/
def Obligations.FieldRegisterKeepsItsWidth : Prop :=
  ∀ (s : State) (i : Nat) (v : Word) (rest : List Input), i < 14 → s.port = .hostWrite (0x10 + 4 * i) v :: rest →
    ∃ t, step s = .next t ∧
      t = { s with
        x := t.x, port := rest,
        hostLog := s.hostLog ++ [{ access := .hostWrite (0x10 + 4 * i) v, response := .writeOk }] } ∧
      t.hostRead (0x10 + 4 * i) = .readOk (if 1 ≤ i ∧ i ≤ 8 then 0#24 ++ v.extractLsb' 0 8 else v) ∧
      ∀ j, j < 14 → j ≠ i → t.hostRead (0x10 + 4 * j) = s.hostRead (0x10 + 4 * j)

/-- R28, R31: a host write of `NSAMP`, and with the command unit of `CMD_REG`, `CMD_VAL`, `CMD_FREQ`, keeps all 32 bits and changes nothing
else. -/
def Obligations.OperandRegistersKeepAllBits : Prop :=
  ∀ (s : State) (off : Nat) (v : Word) (rest : List Input), s.port = .hostWrite off v :: rest →
    (off = 0x8 → step s = .next { s with
      nsamp := v, port := rest, hostLog := s.hostLog ++ [{ access := .hostWrite off v, response := .writeOk }] }) ∧
    (s.config.cmdPresent = true →
      (off = 0x80 → step s = .next { s with
        cmdReg := v, port := rest, hostLog := s.hostLog ++ [{ access := .hostWrite off v, response := .writeOk }] }) ∧
      (off = 0x84 → step s = .next { s with
        cmdVal := v, port := rest, hostLog := s.hostLog ++ [{ access := .hostWrite off v, response := .writeOk }] }) ∧
      (off = 0x88 → step s = .next { s with
        cmdFreq := v, port := rest, hostLog := s.hostLog ++ [{ access := .hostWrite off v, response := .writeOk }] }))

/-- R24: a host write of `SB[k]` is read back whole and leaves every other byte of memory. -/
def Obligations.SampleWordIsReadBack : Prop :=
  ∀ (s : State) (k : Nat) (v : Word) (rest : List Input), k < 1024 → s.port = .hostWrite (0x1000 + 4 * k) v :: rest →
    ∃ t, step s = .next t ∧
      t = { s with
        mem := t.mem, port := rest,
        hostLog := s.hostLog ++ [{ access := .hostWrite (0x1000 + 4 * k) v, response := .writeOk }] } ∧
      t.hostRead (0x1000 + 4 * k) = .readOk v ∧ t.sb k = v ∧
      ∀ a, a < 0x1000 + 4 * k ∨ 0x1000 + 4 * k + 4 ≤ a → t.readByte a = s.readByte a

/-- R66: word `w` of the FB window is the little-endian reading of four frame bytes, and a host write of it sets exactly them. -/
def Obligations.FrameWindowIsLittleEndian : Prop :=
  (∀ (s : State) (w : Nat), w ≤ 1033 →
    s.hostRead (0x2000 + 4 * w) = .readOk (s.fb (4 * w + 3) ++ s.fb (4 * w + 2) ++ s.fb (4 * w + 1) ++ s.fb (4 * w))) ∧
  (∀ (s : State) (w : Nat) (v : Word) (rest : List Input), w ≤ 1033 → s.port = .hostWrite (0x2000 + 4 * w) v :: rest →
    ∃ t, step s = .next t ∧
      t = { s with
        mem := t.mem, port := rest,
        hostLog := s.hostLog ++ [{ access := .hostWrite (0x2000 + 4 * w) v, response := .writeOk }] } ∧
      (∀ j, j ≤ 3 → t.fb (4 * w + j) = v.extractLsb' (8 * j) 8) ∧
      ∀ a, a < 0x2000 + 4 * w ∨ 0x2000 + 4 * w + 4 ≤ a → t.readByte a = s.readByte a)

/-! The CRC (40_crc.md). -/

/-- R130, R131: "The two forms give the same result for every `m`", for the parameters of every well-formed configuration. That every well-formed
configuration has the CRC parameters R9 decides is the model's choice (log entry 14). -/
def Obligations.CrcFormsAgree : Prop :=
  ∀ (c : WfCfg) (m : List Byte), crc32General c.raw.crc m = crc32 m

/-- R131, R132, R135 and the general-knowledge check value: known values of the function. -/
def Obligations.CrcKnownValues : Prop :=
  crc32 [] = 0x00000000 ∧ crcByte 0x00000001 0 = 0x77073096 ∧ crcByte 0x00000080 0 = 0xEDB88320 ∧ crcByte 0x000000FF 0 = 0x2D02EF8D ∧
  crc32 [0x31, 0x32, 0x33, 0x34, 0x35, 0x36, 0x37, 0x38, 0x39] = 0xCBF43926

/-- R134(1), (2): two messages of one length that differ, and differ only inside one window of 32 consecutive bits (bit 0 of a byte is
consumed first), have different CRCs. -/
def Obligations.CrcDetectsShortBursts : Prop :=
  ∀ (m m' : List Byte) (p : Nat), m.length = m'.length → m ≠ m' →
    (∀ i, (m.getD (i / 8) 0).getLsbD (i % 8) ≠ (m'.getD (i / 8) 0).getLsbD (i % 8) → p ≤ i ∧ i < p + 32) →
    crc32 m ≠ crc32 m'

/-- R135: validating by the residue accepts exactly the frames whose stored CRC is the recomputed one; for them the CRC over all 4136 bytes
is `0x2144DF1C` and the register before the final XOR `0xDEBB20E3`; `CRC_CALC` nevertheless holds the frame's CRC. -/
def Obligations.CrcResidueTestsTheStoredCrc : Prop :=
  (∀ s : State, s.fbWord 4132 = crc32 (s.readBytes 0x2000 4132) ↔ crc32 (s.readBytes 0x2000 4136) = 0x2144DF1C) ∧
  (∀ s : State, s.fbWord 4132 = crc32 (s.readBytes 0x2000 4132) → crcRegister (s.readBytes 0x2000 4136) = 0xDEBB20E3) ∧
  (∀ s t : State, exec .check s = .next t → t.crcCalc = crc32 (s.readBytes 0x2000 4132)) ∧
  crc32 [0x31, 0x32, 0x33, 0x34, 0x35, 0x36, 0x37, 0x38, 0x39] = 0xCBF43926 ∧
  crc32 [0x31, 0x32, 0x33, 0x34, 0x35, 0x36, 0x37, 0x38, 0x39, 0x26, 0x39, 0xF4, 0xCB] = 0x2144DF1C

/-! The codec's operations (41_frame_ops.md). -/

/-- R151: NOP reports success and changes nothing else; the host reads `0x003`, with `0x1000` added while OPEN is 1. -/
def Obligations.NopReportsSuccess : Prop :=
  ∀ s : State, ∃ t, exec .nop s = .next t ∧ t = { s with status := t.status } ∧
    t.hostRead 0x4 = .readOk (if s.config.cmdPresent = true ∧ s.openFlag = true then 0x00001003 else 0x00000003)

/-- R152, R93, R98: ENCODE with `NSAMP` = 512 puts every field at its frame offset, stores the CRC of the first 4132 bytes behind them and in
`CRC_CALC`, and changes no register and no byte outside FB. -/
def Obligations.EncodePacksTheFrame : Prop :=
  ∀ s : State, s.nsamp = 512 → ∃ t, exec .encode s = .next t ∧
    t = { s with mem := t.mem, crcCalc := t.crcCalc, status := 0x003 } ∧
    t.fbWord 0 = s.config.magic ∧ (∀ k, k < 1024 → t.fbWord (4 + 4 * k) = s.sb k) ∧ t.fbWord 4100 = s.x.flags ∧
    t.fb 4104 = s.x.rsv1 ∧ t.fb 4105 = s.x.txpwr ∧ t.fb 4106 = s.x.vswr ∧ t.fb 4107 = s.x.alc ∧ t.fb 4108 = s.x.vext ∧
    t.fb 4109 = s.x.vbat ∧ t.fb 4110 = s.x.batcap ∧ t.fb 4111 = s.x.rsv2 ∧ t.fbWord 4112 = s.x.atu ∧
    t.fbWord 4116 = s.x.rsv3_0 ∧ t.fbWord 4120 = s.x.rsv3_1 ∧ t.fbWord 4124 = s.x.rsv3_2 ∧ t.fbWord 4128 = s.x.rsv3_3 ∧
    t.fbWord 4132 = crc32 (t.readBytes 0x2000 4132) ∧ t.crcCalc = crc32 (t.readBytes 0x2000 4132) ∧
    ∀ a, a < 0x2000 ∨ 0x2000 + 4136 ≤ a → t.readByte a = s.readByte a

/-- R152, R28: ENCODE with any other `NSAMP` fails with StructuralPrecondition and changes nothing but `STATUS`. -/
def Obligations.EncodeNeedsFiveHundredTwelve : Prop :=
  ∀ s : State, s.nsamp ≠ 512 → exec .encode s = .next { s with status := 0x041 }

/-- R153: DECODE of a valid frame unpacks every field from its frame offset, sets `NSAMP` to 512, and leaves FB and every other byte. -/
def Obligations.DecodeUnpacksAValidFrame : Prop :=
  ∀ s : State, s.fbWord 0 = s.config.magic → s.fbWord 4132 = crc32 (s.readBytes 0x2000 4132) →
    ∃ t, exec .decode s = .next t ∧
      t = { s with mem := t.mem, x := t.x, nsamp := 512, crcCalc := s.fbWord 4132, status := 0x003 } ∧
      (∀ k, k < 1024 → t.sb k = s.fbWord (4 + 4 * k)) ∧
      t.x = {
              flags := s.fbWord 4100, rsv1 := s.fb 4104, txpwr := s.fb 4105, vswr := s.fb 4106, alc := s.fb 4107, vext := s.fb 4108,
              vbat := s.fb 4109, batcap := s.fb 4110, rsv2 := s.fb 4111, atu := s.fbWord 4112, rsv3_0 := s.fbWord 4116,
              rsv3_1 := s.fbWord 4120, rsv3_2 := s.fbWord 4124, rsv3_3 := s.fbWord 4128 } ∧
      ∀ a, a < 0x1000 ∨ 0x2000 ≤ a → t.readByte a = s.readByte a

/-- R154: CHECK of a valid frame writes the recomputed CRC and success, and nothing else. -/
def Obligations.CheckAcceptsAValidFrame : Prop :=
  ∀ s : State, s.fbWord 0 = s.config.magic → s.fbWord 4132 = crc32 (s.readBytes 0x2000 4132) →
    exec .check s = .next { s with crcCalc := s.fbWord 4132, status := 0x003 }

/-- R153, R154, R223(3): DECODE and CHECK of an invalid frame fail with both tests reported, and change nothing but `CRC_CALC` and `STATUS`. -/
def Obligations.InvalidFrameIsRejected : Prop :=
  ∀ (s : State) (i : Instr), i = .decode ∨ i = .check →
    s.fbWord 0 ≠ s.config.magic ∨ s.fbWord 4132 ≠ crc32 (s.readBytes 0x2000 4132) →
    exec i s = .next { s with
      crcCalc := crc32 (s.readBytes 0x2000 4132)
      status :=
        if s.fbWord 0 ≠ s.config.magic then
          (if s.fbWord 4132 ≠ crc32 (s.readBytes 0x2000 4132) then 0x331 else 0x131)
        else 0x231 }

/-- R155: from any state with `NSAMP` = 512, ENCODE then DECODE both succeed and give back SB, every field register and `NSAMP`; `CRC_CALC` is the
stored CRC. -/
def Obligations.EncodeDecodeRoundTrip : Prop :=
  ∀ s : State, s.nsamp = 512 →
    ∃ t u, exec .encode s = .next t ∧ exec .decode t = .next u ∧ t.status = 0x003 ∧ u.status = 0x003 ∧
      (∀ k, k < 1024 → u.sb k = s.sb k) ∧ u.x = s.x ∧ u.nsamp = s.nsamp ∧ u.crcCalc = u.fbWord 4132

/-- R158: if DECODE succeeds and ENCODE follows with nothing changed between, ENCODE succeeds and leaves FB as it was, byte for byte. -/
def Obligations.RelayReproducesTheFrame : Prop :=
  ∀ s t : State, exec .decode s = .next t → t.status = 0x003 →
    ∃ u, exec .encode t = .next u ∧ u.status = 0x003 ∧ ∀ a, a < 4136 → u.fb a = s.fb a

/-- R156, R134(3): from a valid frame, a changed magic word makes DECODE and CHECK fail with `ERR` = 3; exactly one flipped bit makes them fail with
both causes inside the magic word and with `BAD_CRC` alone elsewhere. -/
def Obligations.FlippedBitIsRejected : Prop :=
  ∀ s s' : State, s.fbWord 0 = s.config.magic → s.fbWord 4132 = crc32 (s.readBytes 0x2000 4132) → s'.cfg = s.cfg →
    (s'.fbWord 0 ≠ s'.config.magic →
      ∀ i, i = Instr.decode ∨ i = Instr.check → ∃ t, exec i s' = .next t ∧ t.statusErr = 3 ∧ t.statusOk = false) ∧
    (∀ a b, a < 4136 → b < 8 → (∀ c, c < 4136 → s'.fb c = if c = a then s.fb c ^^^ (1#8 <<< b) else s.fb c) →
      ∀ i, i = Instr.decode ∨ i = Instr.check → ∃ t, exec i s' = .next t ∧ t.status = if a < 4 then 0x331 else 0x231)

/-- R159: ENCODE, DECODE and CHECK depend on nothing but the operands their rules list and the configuration, and issue no bus request. -/
def Obligations.CodecDependsOnItsOperandsAlone : Prop :=
  ∀ s s' t t' : State, s'.cfg = s.cfg →
    (exec .encode s = .next t → exec .encode s' = .next t' → s'.nsamp = s.nsamp → s'.x = s.x →
      (∀ k, k < 1024 → s'.sb k = s.sb k) →
      t'.status = t.status ∧ (s.nsamp = 512 → t'.crcCalc = t.crcCalc ∧ ∀ a, a < 4136 → t'.fb a = t.fb a)) ∧
    (exec .decode s = .next t → exec .decode s' = .next t' → (∀ a, a < 4136 → s'.fb a = s.fb a) →
      t'.status = t.status ∧ t'.crcCalc = t.crcCalc ∧
      (t.status = 0x003 → t'.x = t.x ∧ t'.nsamp = t.nsamp ∧ ∀ k, k < 1024 → t'.sb k = t.sb k)) ∧
    (exec .check s = .next t → exec .check s' = .next t' → (∀ a, a < 4136 → s'.fb a = s.fb a) →
      t'.status = t.status ∧ t'.crcCalc = t.crcCalc) ∧
    (∀ i, i = Instr.encode ∨ i = Instr.decode ∨ i = Instr.check → exec i s = .next t → t.busLog = s.busLog)

/-! The command unit (42_command_ops.md, 30_encoding.md). -/

/-- R180: "The first entry that matches wins"; `BAND_LAST` above every bound. -/
def Obligations.BandIndexIsTheFirstMatch : Prop :=
  (∀ (c : Cfg) (f : Word) (pre post : List Rung) (r : Rung), c.bandLadder = pre ++ r :: post →
    (∀ q ∈ pre, if q.inclusive then ¬ f ≤ q.bound else ¬ f < q.bound) →
    (if r.inclusive then f ≤ r.bound else f < r.bound) → bandIndex c f = r.index) ∧
  (∀ (c : Cfg) (f : Word), (∀ q ∈ c.bandLadder, if q.inclusive then ¬ f ≤ q.bound else ¬ f < q.bound) →
    bandIndex c f = c.bandLast)

/-- R181: the binding values, for every well-formed configuration. -/
def Obligations.BandIndexBindingValues : Prop :=
  ∀ c : WfCfg,
    (∀ f : Word, f < 1800000 → bandIndex c.raw f = 0) ∧
    (∀ f : Word, 1800000 ≤ f → f ≤ 2000000 → bandIndex c.raw f = 1) ∧
    bandIndex c.raw 2000001 = 2 ∧ bandIndex c.raw 21449999 = 15 ∧ bandIndex c.raw 54000001 = 22

/-- R182: BANDIDX writes the band index of `CMD_FREQ` to `BAND_OUT` and reports success, open or not, and changes nothing else. -/
def Obligations.BandidxWritesBandOut : Prop :=
  ∀ s : State, s.config.cmdPresent = true →
    ∃ t, exec .bandidx s = .next t ∧ t = { s with bandOut := t.bandOut, status := 0x003 } ∧
      t.bandOut.toNat = (bandIndex s.config s.cmdFreq).val

/-- R100, R101: the six bytes of the Wire Command. -/
def Obligations.WireCommandBytes : Prop :=
  ∀ (r : Nat) (v : Word), wireCmd r v =
    [(BitVec.ofNat 16 (4 * r)).extractLsb' 8 8, (BitVec.ofNat 16 (4 * r)).extractLsb' 0 8,
      v.extractLsb' 0 8, v.extractLsb' 8 8, v.extractLsb' 16 8, v.extractLsb' 24 8]

/-- R103: the length and every byte of the Wire Full-State Burst of the shadow table. -/
def Obligations.BurstBytesOfTheTable : Prop :=
  ∀ s : State,
    (burstBytes s.config s.shadowTable).length = 2 + 4 * (s.config.nReg + 1) ∧
    (burstBytes s.config s.shadowTable)[0]? = some s.config.burstHdr0 ∧
    (burstBytes s.config s.shadowTable)[1]? = some s.config.burstHdr1 ∧
    ∀ r j, r ≤ s.config.nReg → j ≤ 3 →
      (burstBytes s.config s.shadowTable)[2 + 4 * r + j]? = some ((s.shadow r).extractLsb' (8 * j) 8)

/-- R184: CMD_INIT with both requests answered success: `OPEN` is 1, the shadow table holds the defaults, one open and one burst of the defaults are
logged, and nothing else changes. -/
def Obligations.CmdInitOpensAndSendsTheDefaults : Prop :=
  ∀ s : State, s.config.cmdPresent = true → s.openAnswer = true → s.busOpen.writeAnswer = true →
    ∃ t, exec .cmdInit s = .next t ∧
      t = { s with
        mem := t.mem, openFlag := true, status := 0x003, openAnswers := s.openAnswers.tail, writeAnswers := s.writeAnswers.tail,
        draws := s.draws + 2
        busLog := s.busLog ++ [.openReq true, .writeReq ([s.config.burstHdr0, s.config.burstHdr1] ++
          (List.range (s.config.nReg + 1)).flatMap fun r => wordBytes (s.config.defaults.getD r 0)) true] } ∧
      (∀ r, r ≤ s.config.nReg → t.shadow r = s.config.defaults.getD r 0) ∧
      ∀ a, a < shadowBase ∨ shadowBase + 4 * (s.config.nReg + 1) ≤ a → t.readByte a = s.readByte a

/-- R184: CMD_INIT whose open is refused: TransportOpenFailure, `OPEN` is 0, no `BusWrite`, the shadow table unchanged. -/
def Obligations.CmdInitOpenFailure : Prop :=
  ∀ s : State, s.config.cmdPresent = true → s.openAnswer = false →
    exec .cmdInit s = .next { s with
      openFlag := false, status := 0x011, openAnswers := s.openAnswers.tail, draws := s.draws + 1,
      busLog := s.busLog ++ [.openReq false] }

/-- R184: CMD_INIT whose burst is refused: TransportWriteFailure, the shadow table stays populated and `OPEN` stays 1. -/
def Obligations.CmdInitBurstFailure : Prop :=
  ∀ s : State, s.config.cmdPresent = true → s.openAnswer = true → s.busOpen.writeAnswer = false →
    ∃ t, exec .cmdInit s = .next t ∧
      t = { s with
        mem := t.mem, openFlag := true, status := 0x021, openAnswers := s.openAnswers.tail, writeAnswers := s.writeAnswers.tail,
        draws := s.draws + 2
        busLog := s.busLog ++ [.openReq true, .writeReq ([s.config.burstHdr0, s.config.burstHdr1] ++
          (List.range (s.config.nReg + 1)).flatMap fun r => wordBytes (s.config.defaults.getD r 0)) false] } ∧
      (∀ r, r ≤ s.config.nReg → t.shadow r = s.config.defaults.getD r 0) ∧
      ∀ a, a < shadowBase ∨ shadowBase + 4 * (s.config.nReg + 1) ≤ a → t.readByte a = s.readByte a

/-- R185, R183: CMD_SEND answered success: one `BusWrite` of the six bytes, `SHADOW[r]` is the value, every other byte unchanged. -/
def Obligations.CmdSendRecordsTheValue : Prop :=
  ∀ s : State, s.config.cmdPresent = true → s.cmdReg.toNat ≤ s.config.nReg → s.openFlag = true → s.writeAnswer = true →
    ∃ t, exec .cmdSend s = .next t ∧
      t = { s with
        mem := t.mem, status := 0x003, writeAnswers := s.writeAnswers.tail, draws := s.draws + 1
        busLog := s.busLog ++ [.writeReq [(BitVec.ofNat 16 (4 * s.cmdReg.toNat)).extractLsb' 8 8,
          (BitVec.ofNat 16 (4 * s.cmdReg.toNat)).extractLsb' 0 8, s.cmdVal.extractLsb' 0 8, s.cmdVal.extractLsb' 8 8,
          s.cmdVal.extractLsb' 16 8, s.cmdVal.extractLsb' 24 8] true] } ∧
      t.shadow s.cmdReg.toNat = s.cmdVal ∧
      ∀ a, a < shadowBase + 4 * s.cmdReg.toNat ∨ shadowBase + 4 * s.cmdReg.toNat + 4 ≤ a → t.readByte a = s.readByte a

/-- R185, R223(4): the three failures of CMD_SEND in their order; each leaves the shadow table unchanged, and only the last makes a request. -/
def Obligations.CmdSendFailuresLeaveTheTable : Prop :=
  ∀ s : State, s.config.cmdPresent = true →
    (s.config.nReg < s.cmdReg.toNat → exec .cmdSend s = .next { s with status := 0x041 }) ∧
    (s.cmdReg.toNat ≤ s.config.nReg → s.openFlag = false → exec .cmdSend s = .next { s with status := 0x021 }) ∧
    (s.cmdReg.toNat ≤ s.config.nReg → s.openFlag = true → s.writeAnswer = false →
      exec .cmdSend s = .next { s with
        status := 0x021, writeAnswers := s.writeAnswers.tail, draws := s.draws + 1,
        busLog := s.busLog ++ [.writeReq (wireCmd s.cmdReg.toNat s.cmdVal) false] })

/-- R186: CMD_IDLE sends the whole table once and changes nothing but `STATUS`, whatever the answer; while `OPEN` is 0 it makes no request. -/
def Obligations.CmdIdleSendsTheTable : Prop :=
  ∀ s : State, s.config.cmdPresent = true →
    (s.openFlag = true → exec .cmdIdle s = .next { s with
      status := if s.writeAnswer then 0x003 else 0x021, writeAnswers := s.writeAnswers.tail, draws := s.draws + 1,
      busLog := s.busLog ++ [.writeReq ([s.config.burstHdr0, s.config.burstHdr1] ++
        (List.range (s.config.nReg + 1)).flatMap fun r => wordBytes (s.shadow r)) s.writeAnswer] }) ∧
    (s.openFlag = false → exec .cmdIdle s = .next { s with status := 0x021 })

/-- R187, R102: CMD_SETBAND to another band, answered success: `CUR_BAND` is the new index, one `BusWrite` of the band command, and the word
`b << 8` in `SHADOW[BAND_REG]`. -/
def Obligations.SetbandSendsTheNewBand : Prop :=
  ∀ s : State, s.config.cmdPresent = true → (bandIndex s.config s.cmdFreq).val ≠ s.curBand.toNat → s.openFlag = true →
    s.writeAnswer = true →
    ∃ t, exec .cmdSetband s = .next t ∧
      t = { s with
        mem := t.mem, curBand := t.curBand, status := 0x003, writeAnswers := s.writeAnswers.tail, draws := s.draws + 1
        busLog := s.busLog ++ [.writeReq [(BitVec.ofNat 16 (4 * s.config.bandReg)).extractLsb' 8 8,
          (BitVec.ofNat 16 (4 * s.config.bandReg)).extractLsb' 0 8, 0,
          BitVec.ofNat 8 (bandIndex s.config s.cmdFreq).val, 0, 0] true] } ∧
      t.curBand.toNat = (bandIndex s.config s.cmdFreq).val ∧
      t.shadow s.config.bandReg = BitVec.ofNat 32 (256 * (bandIndex s.config s.cmdFreq).val) ∧
      ∀ a, a < shadowBase + 4 * s.config.bandReg ∨ shadowBase + 4 * s.config.bandReg + 4 ≤ a → t.readByte a = s.readByte a

/-- R187: "repeated calls with frequencies mapping to the same band must produce zero additional writes": success, and nothing but `STATUS`. While
`OPEN` is 0 the success is the model's choice (log entry 18: DEDUCED): the pseudocode of R187 sends nothing, where R188 read literally says
TransportWriteFailure. -/
def Obligations.SetbandToTheSameBandIsSilent : Prop :=
  ∀ s : State, s.config.cmdPresent = true → (bandIndex s.config s.cmdFreq).val = s.curBand.toNat →
    exec .cmdSetband s = .next { s with status := 0x003 }

/-- R187, R257: a failed send inside CMD_SETBAND leaves the new `CUR_BAND` and the old shadow table, and the same operation again then sends
nothing. That the repeated operation ends with success also while `OPEN` is 0 is the model's choice (log entry 18: DEDUCED): R257 does not state its
`STATUS`, and R188 read literally says TransportWriteFailure. -/
def Obligations.SetbandFailureSuppressesTheRetry : Prop :=
  ∀ s : State, s.config.cmdPresent = true → (bandIndex s.config s.cmdFreq).val ≠ s.curBand.toNat →
    s.openFlag = false ∨ s.writeAnswer = false →
    ∃ t u, exec .cmdSetband s = .next t ∧ t.status = 0x021 ∧ t.curBand.toNat = (bandIndex s.config s.cmdFreq).val ∧
      t.mem = s.mem ∧ t.x = s.x ∧ t.openFlag = s.openFlag ∧ t.nsamp = s.nsamp ∧ t.crcCalc = s.crcCalc ∧ t.bandOut = s.bandOut ∧
      t.cmdFreq = s.cmdFreq ∧
      t.busLog = s.busLog ++ (if s.openFlag then
        [.writeReq (wireCmd s.config.bandReg (BitVec.ofNat 32 (256 * (bandIndex s.config s.cmdFreq).val))) false] else []) ∧
      exec .cmdSetband t = .next u ∧ u.status = 0x003 ∧ u.busLog = t.busLog ∧ u.mem = t.mem

/-- R189(3), S1: a successful CMD_SEND followed at once by CMD_IDLE transmits the value, least significant byte first, at the register's slot. -/
def Obligations.SendThenIdleTransmitsTheValue : Prop :=
  ∀ s t u : State, s.config.cmdPresent = true → exec .cmdSend s = .next t → t.status = 0x003 → exec .cmdIdle t = .next u →
    ∃ payload answer, u.busLog = t.busLog ++ [.writeReq payload answer] ∧
      ∀ j, j ≤ 3 → payload[2 + 4 * s.cmdReg.toNat + j]? = some (s.cmdVal.extractLsb' (8 * j) 8)

/-- R190: each operation makes at most one `BusOpen` and at most one `BusWrite`, in that order, and repeats none; only the command operations with
the unit present make any. -/
def Obligations.AtMostOneRequestOfEachKind : Prop :=
  ∀ (i : Instr) (s t : State), exec i s = .next t →
    t.busLog = s.busLog ∨
    (i ∈ [Instr.cmdInit, .cmdSend, .cmdIdle, .cmdSetband] ∧ s.config.cmdPresent = true ∧
      ((∃ p ok, i ≠ .cmdInit ∧ t.busLog = s.busLog ++ [.writeReq p ok]) ∨
       (i = .cmdInit ∧ t.busLog = s.busLog ++ [.openReq false]) ∨
       (∃ p ok, i = .cmdInit ∧ t.busLog = s.busLog ++ [.openReq true, .writeReq p ok])))

/-! Whole-machine rules. -/

/-- R222: which operation can raise what. -/
def Obligations.ErrorsOfEachOperation : Prop :=
  ∀ (i : Instr) (s t : State), exec i s = .next t →
    (i.isCommand = true → s.config.cmdPresent = false → t.status = 0x051) ∧
    (i.isCommand = false ∨ s.config.cmdPresent = true →
      match i with
      | .nop => t.status = 0x003
      | .encode => t.status = 0x003 ∨ t.status = 0x041
      | .decode => t.status = 0x003 ∨ t.status = 0x131 ∨ t.status = 0x231 ∨ t.status = 0x331
      | .check => t.status = 0x003 ∨ t.status = 0x131 ∨ t.status = 0x231 ∨ t.status = 0x331
      | .cmdInit => t.status = 0x003 ∨ t.status = 0x011 ∨ t.status = 0x021
      | .cmdSend => t.status = 0x003 ∨ t.status = 0x021 ∨ t.status = 0x041
      | .cmdIdle => t.status = 0x003 ∨ t.status = 0x021
      | .cmdSetband => t.status = 0x003 ∨ t.status = 0x021
      | .bandidx => t.status = 0x003)

/-- R225: the complete list of what a failing operation changes (the bus port's own fields are the requests in the log). -/
def Obligations.FailingOperationChangesOnlyItsList : Prop :=
  (∀ (i : Instr) (s t : State), exec i s = .next t → t.status ≠ 0x003 →
    match i with
    | .nop => False
    | .encode => t = { s with status := t.status }
    | .decode => t = { s with status := t.status, crcCalc := t.crcCalc }
    | .check => t = { s with status := t.status, crcCalc := t.crcCalc }
    | .cmdSend => t = { s with status := t.status, writeAnswers := t.writeAnswers, draws := t.draws, busLog := t.busLog }
    | .cmdIdle => t = { s with status := t.status, writeAnswers := t.writeAnswers, draws := t.draws, busLog := t.busLog }
    | .cmdSetband => t = { s with
        status := t.status, curBand := t.curBand, writeAnswers := t.writeAnswers, draws := t.draws, busLog := t.busLog }
    | .cmdInit =>
      (t.status = 0x011 → t = { s with
        status := 0x011, openFlag := false, openAnswers := t.openAnswers, draws := t.draws, busLog := t.busLog }) ∧
      (t.status = 0x021 →
        t = { s with
          status := 0x021, openFlag := true, mem := t.mem, openAnswers := t.openAnswers, writeAnswers := t.writeAnswers,
          draws := t.draws, busLog := t.busLog } ∧
        (∀ r, r ≤ s.config.nReg → t.shadow r = s.config.defaults.getD r 0) ∧
        ∀ a, a < shadowBase ∨ shadowBase + 4 * (s.config.nReg + 1) ≤ a → t.readByte a = s.readByte a)
    | .bandidx => t = { s with status := t.status }) ∧
  (∀ (s t : State) (w : Word), (∀ i, decode w ≠ .ok i) → s.runOp w = .next t → t = { s with status := t.status })

/-- R221, R27: after any operation `DONE` is 1; `OK` is 1 exactly when `ERR` is 0; `BAD_MAGIC` or `BAD_CRC` is 1 exactly when `ERR` is 3; bit 12 is the
current OPEN; every reserved bit is 0. -/
def Obligations.StatusFieldsAgree : Prop :=
  ∀ (i : Instr) (s t : State), exec i s = .next t →
    t.statusDone = true ∧ (t.statusOk = true ↔ t.statusErr = 0) ∧
    ((t.statusBadMagic = true ∨ t.statusBadCrc = true) ↔ t.statusErr = 3) ∧
    t.statusOpen = (t.config.cmdPresent && t.openFlag) ∧
    t.statusWord.extractLsb' 2 2 = 0 ∧ t.statusWord.extractLsb' 10 2 = 0 ∧ t.statusWord.extractLsb' 13 19 = 0

/-- R27, R227: `DONE` never returns to 0 except by reset. -/
def Obligations.DoneIsClearedByResetAlone : Prop :=
  ∀ s t : State, step s = .next t → s.statusDone = true → t.statusDone = false → s.port.head? = some .reset

/-- R37(1): no step changes the configuration. -/
def Obligations.ConfigurationNeverChanges : Prop :=
  ∀ s t : State, step s = .next t → t.cfg = s.cfg

/-- R34, R189(4): a step that changes a word of the shadow table is a reset, or a write to `OP` that runs CMD_INIT, CMD_SEND or CMD_SETBAND with the
command unit present; and the two sends change only the one entry they name. -/
def Obligations.ShadowIsWrittenByCommandsAlone : Prop :=
  ∀ (s t : State) (r : Nat), step s = .next t → r ≤ s.config.nReg → t.shadow r ≠ s.shadow r →
    s.port.head? = some .reset ∨
    (s.config.cmdPresent = true ∧ ∃ v rest, s.port = .hostWrite 0 v :: rest ∧
      (decode v = .ok .cmdInit ∨ (decode v = .ok .cmdSend ∧ r = s.cmdReg.toNat) ∨
        (decode v = .ok .cmdSetband ∧ r = s.config.bandReg)))

/-- R33: a step that changes `CUR_BAND` is a reset, or a write to `OP` that runs CMD_SETBAND with the command unit present. -/
def Obligations.CurBandIsWrittenBySetbandAlone : Prop :=
  ∀ s t : State, step s = .next t → t.curBand ≠ s.curBand →
    s.port.head? = some .reset ∨
    (s.config.cmdPresent = true ∧ ∃ v rest, s.port = .hostWrite 0 v :: rest ∧ decode v = .ok .cmdSetband)

/-- The invariant holds after reset. -/
def Obligations.ResetMeetsTheInvariant : Prop := State.reset.Inv

/-- Every step keeps the invariant, from every state that meets it: memory canonical and only where a buffer is, `STATUS` one of R221's words,
`CUR_BAND` in 0..22 (R33), the shadow table defined while `OPEN` is 1 (R189(1)), no command state without the unit (R39). -/
def Obligations.EveryStepKeepsTheInvariant : Prop :=
  ∀ s t : State, s.Inv → step s = .next t → t.Inv
end

