-- ==== Sys2Proof/Laws/Address.lean ====
section
/-! SUPPORT. Laws of the address map and of the field registers by number (20_memory.md R61, 10_state.md R21, R22). -/

namespace Sys2Proof.Machine

theorem Field.index_lt (f : Field) : f.index < 14 := by cases f <;> decide

@[simp] theorem fieldOfIndex_index (f : Field) : fieldOfIndex f.index = some f := by cases f <;> rfl

theorem fieldOfIndex_some {n : Nat} {f : Field} (h : fieldOfIndex n = some f) : f.index = n := by
  unfold fieldOfIndex at h
  split at h <;> simp at h <;> subst h <;> rfl

theorem locate_misaligned {c : Cfg} {off : Nat} (h : off % 4 ≠ 0 ∨ 0x20000 ≤ off) : locate c off = none := by
  simp [locate, h]

theorem locate_field (c : Cfg) (f : Field) : locate c (0x10 + 4 * f.index) = some (.field f) := by
  cases f <;> simp [locate, Field.index, codecRegister, fieldOfIndex]

theorem locate_sample (c : Cfg) {k : Nat} (h : k < 1024) : locate c (sbBase + 4 * k) = some (.sample k) := by
  unfold locate sbBase
  rw [if_neg (by omega), if_neg (by omega), if_neg (by omega), if_pos (by omega)]
  congr 2; omega

theorem locate_frame (c : Cfg) {w : Nat} (h : w < 1034) : locate c (fbBase + 4 * w) = some (.frame w) := by
  unfold locate fbBase
  rw [if_neg (by omega), if_neg (by omega), if_neg (by omega), if_neg (by omega), if_pos (by omega)]
  congr 2; omega

theorem locate_shadow {c : Cfg} (hp : c.cmdPresent = true) (hn : c.nReg ≤ 16383) {r : Nat} (h : r ≤ c.nReg) :
    locate c (shadowBase + 4 * r) = some (.shadow r) := by
  unfold locate shadowBase
  have hr : (0x10000 + 4 * r - 0x10000) / 4 = r := by omega
  rw [if_neg (by omega), if_neg (by omega), if_neg (by omega), if_neg (by omega), if_neg (by omega), if_neg (by omega), hr,
    if_pos ⟨hp, h⟩]

end Sys2Proof.Machine
end

