-- ==== Sys2Proof/Laws/Config.lean ====
section
/-! SUPPORT. What a well-formed configuration gives (00_scope.md R8, 42_command_ops.md R181). -/

namespace Sys2Proof

theorem WfCfg.checks (c : WfCfg) :
    c.raw.nRegFits = true ∧ c.raw.bandRegIsRegister = true ∧ ladderOrdered c.raw.bandLadder = true ∧
    ladderBegins c.raw.bandLadder = true ∧ c.raw.bindingPoints = true ∧ c.raw.crcDecided = true := by
  have h := c.wf
  simp only [Cfg.wellFormed, Bool.and_eq_true] at h
  obtain ⟨⟨⟨⟨⟨h1, h2⟩, h3⟩, h4⟩, h5⟩, h6⟩ := h
  exact ⟨h1, h2, h3, h4, h5, h6⟩

theorem WfCfg.nReg_le (c : WfCfg) : c.raw.nReg ≤ 16383 := of_decide_eq_true c.checks.1

theorem WfCfg.bandReg_le (c : WfCfg) : c.raw.bandReg ≤ c.raw.nReg := of_decide_eq_true c.checks.2.1

theorem WfCfg.crc_eq (c : WfCfg) : c.raw.crc = CrcParams.decided := of_decide_eq_true c.checks.2.2.2.2.2

/-- The ladder is its two fixed entries and a rest (R181). -/
theorem WfCfg.ladder_eq (c : WfCfg) : ∃ rest, c.raw.bandLadder = ⟨1800000, false, 0⟩ :: ⟨2000000, true, 1⟩ :: rest := by
  have h := c.checks.2.2.2.1
  unfold ladderBegins at h
  split at h
  · next a b rest heq =>
    rw [Bool.and_eq_true, decide_eq_true_eq, decide_eq_true_eq] at h
    exact ⟨rest, by rw [heq, h.1, h.2]⟩
  · exact absurd h (by decide)

end Sys2Proof
end

