-- ==== Sys2Proof/Laws/Crc.lean ====
section
/-! SUPPORT. The CRC register over a concatenation, its linearity over XOR, and that no bit step loses information. -/

namespace Sys2Proof.Machine

theorem crcRegister_append (m n : List Byte) : crcRegister (m ++ n) = n.foldl crcByte (crcRegister m) := by
  simp [crcRegister, List.foldl_append]

theorem crc32_eq (m : List Byte) : crc32 m = crcRegister m ^^^ 0xFFFFFFFF := rfl

theorem crcBit_xor (a b : Word) : crcBit (a ^^^ b) = crcBit a ^^^ crcBit b := by
  simp only [crcBit, BitVec.getLsbD_xor]
  cases a.getLsbD 0 <;> cases b.getLsbD 0 <;> simp [BitVec.ushiftRight_xor_distrib] <;> (ac_nf <;> simp)

/-- Bit 31 after a bit step is bit 0 before it: the polynomial's top bit is 1 and the shift brings in 0. -/
theorem crcBit_top (a : Word) : (crcBit a).getLsbD 31 = a.getLsbD 0 := by
  unfold crcBit
  split
  · next h => rw [h, BitVec.getLsbD_xor]; simp [crcPolyReflected]
  · next h => simpa using h

theorem crcBit_eq_zero {a : Word} (h : crcBit a = 0) : a = 0 := by
  have h0 : a.getLsbD 0 = false := by rw [← crcBit_top, h]; rfl
  rw [crcBit, h0] at h
  simp only [Bool.false_eq_true, if_false] at h
  apply BitVec.eq_of_getLsbD_eq
  intro i hi
  rcases i with _ | i
  · rw [h0]; simp
  · have := congrArg (fun w : Word => w.getLsbD i) h
    simpa [BitVec.getLsbD_ushiftRight, Nat.add_comm] using this

theorem crcBit_injective {a b : Word} (h : crcBit a = crcBit b) : a = b := by
  have h0 : crcBit (a ^^^ b) = 0 := by rw [crcBit_xor, h, BitVec.xor_self]; rfl
  exact BitVec.xor_eq_zero_iff.1 (crcBit_eq_zero h0)

/-- One byte step of two registers and two bytes differs by the byte step of the differences. -/
theorem crcByte_xor (c d : Word) (a b : Byte) : crcByte (c ^^^ d) (a ^^^ b) = crcByte c a ^^^ crcByte d b := by
  have h : (c ^^^ d) ^^^ (a ^^^ b).setWidth 32 = (c ^^^ a.setWidth 32) ^^^ (d ^^^ b.setWidth 32) := by
    rw [BitVec.setWidth_xor]; ac_rfl
  simp only [crcByte, h, crcBit_xor]

theorem crcByte_injective {c d : Word} {b : Byte} (h : crcByte c b = crcByte d b) : c = d := by
  have h1 := crcBit_injective <| crcBit_injective <| crcBit_injective <| crcBit_injective <| crcBit_injective <|
    crcBit_injective <| crcBit_injective <| crcBit_injective h
  exact (BitVec.xor_left_inj _).1 h1

end Sys2Proof.Machine
end

