-- ==== Sys2Proof/Laws/Effects.lean ====
section
/-! SUPPORT. What each operation can do to the memory and to the band registers, once, and which locations an offset can name. -/

namespace Sys2Proof.Machine

/-! Offsets. -/

theorem codecRegister_ne_buffer {i : Nat} {l : Location} (h : codecRegister i = some l) :
    (∀ k, l ≠ .sample k) ∧ (∀ w, l ≠ .frame w) ∧ (∀ r, l ≠ .shadow r) ∧ (l = .op → i = 0) ∧
    l ≠ .cmdReg ∧ l ≠ .cmdVal ∧ l ≠ .cmdFreq ∧ l ≠ .bandOut ∧ l ≠ .curBand := by
  rcases i with _ | _ | _ | _ | n
  · simp [codecRegister] at h; subst h; simp
  · simp [codecRegister] at h; subst h; simp
  · simp [codecRegister] at h; subst h; simp
  · simp [codecRegister] at h; subst h; simp
  · cases hf : fieldOfIndex n <;> simp [codecRegister, hf] at h
    subst h; simp

theorem commandRegister_some {i : Nat} {l : Location} (h : commandRegister i = some l) :
    l = .cmdReg ∨ l = .cmdVal ∨ l = .cmdFreq ∨ l = .bandOut ∨ l = .curBand := by
  unfold commandRegister at h
  split at h <;> simp at h <;> subst h <;> simp

/-- Which locations an offset names, buffer by buffer (R61): `OP` at 0 alone, the command unit's locations only with the unit. -/
theorem locate_cases {c : Cfg} {off : Nat} {l : Location} (h : locate c off = some l) :
    (l = .op → off = 0) ∧ (∀ k, l = .sample k → k < 1024) ∧ (∀ w, l = .frame w → w < 1034) ∧
    (∀ r, l = .shadow r → c.cmdPresent = true ∧ r ≤ c.nReg) ∧
    ((l = .cmdReg ∨ l = .cmdVal ∨ l = .cmdFreq ∨ l = .bandOut ∨ l = .curBand) → c.cmdPresent = true) := by
  unfold locate at h
  split at h
  · cases h
  next h0 =>
  split at h
  · obtain ⟨h1, h2, h3, h4, h5, h6, h7, h8, h9⟩ := codecRegister_ne_buffer h
    refine ⟨fun e => ?_, fun k e => absurd e (h1 k), fun w e => absurd e (h2 w), fun r e => absurd e (h3 r), ?_⟩
    · have := h4 e; omega
    · rintro (e | e | e | e | e)
      · exact absurd e h5
      · exact absurd e h6
      · exact absurd e h7
      · exact absurd e h8
      · exact absurd e h9
  split at h
  · split at h
    · next hc => rcases commandRegister_some h with rfl | rfl | rfl | rfl | rfl <;> simp [hc]
    · cases h
  split at h
  · injection h with h; subst h
    exact ⟨by simp, fun k e => by injection e with e; omega, by simp, by simp, by simp⟩
  split at h
  · injection h with h; subst h
    exact ⟨by simp, by simp, fun k e => by injection e with e; omega, by simp, by simp⟩
  split at h
  · cases h
  split at h
  · next hc =>
    injection h with h; subst h
    exact ⟨by simp, by simp, by simp, fun r e => by injection e with e; exact ⟨hc.1, by omega⟩, by simp⟩
  · cases h

/-! The memory. -/

/-- The samples unpacked depend on the memory and the number of resets alone. -/
theorem State.unpackSamples_congr {s t : State} (hm : t.mem = s.mem) (hr : t.resets = s.resets) :
    t.unpackSamples = s.unpackSamples := by
  simp only [State.unpackSamples]
  exact List.map_congr_left fun k _ => State.readWord_congr hm hr _

/-- The inner send leaves the memory, or stores one shadow entry (R183). -/
theorem State.send_mem (s : State) (r : Nat) (v : Word) :
    (s.send r v).mem = s.mem ∨
    (s.openFlag = true ∧ (s.send r v).mem = s.mem.write (shadowBase + 4 * r) (wordBytes v)) := by
  rcases s.send_cases r v with ⟨_, he⟩ | ⟨_, _, he⟩ | ⟨ho, _, he⟩ <;> rw [he]
  · exact .inl rfl
  · exact .inl rfl
  · exact .inr ⟨ho, rfl⟩

/-- The memory after the filling of CMD_INIT (R184). -/
theorem State.loadDefaults_mem (s : State) : s.loadDefaults.mem =
    (s.mem.write shadowBase (wordsBytes ((List.range (s.config.nReg + 1)).map fun _ => 0))).write shadowBase
      (wordsBytes ((List.range (s.config.nReg + 1)).map (defaultWord s.config))) := rfl

/-- What an operation can store: nothing, ENCODE's frame, DECODE's samples, the defaults, or one shadow entry. -/
theorem State.after_mem (s : State) (i : Instr) :
    (s.after i).mem = s.mem ∨
    (i = .encode ∧ (s.after i).mem = s.mem.write fbBase (frameOf s.config.magic s.samples s.x)) ∨
    (i = .decode ∧ (s.after i).mem = s.mem.write sbBase (wordsBytes s.unpackSamples)) ∨
    (i = .cmdInit ∧ s.config.cmdPresent = true ∧ s.openAnswer = true ∧ (s.after i).mem =
      (s.mem.write shadowBase (wordsBytes ((List.range (s.config.nReg + 1)).map fun _ => 0))).write shadowBase
        (wordsBytes ((List.range (s.config.nReg + 1)).map (defaultWord s.config)))) ∨
    (i = .cmdSend ∧ s.config.cmdPresent = true ∧ s.openFlag = true ∧ s.cmdReg.toNat ≤ s.config.nReg ∧
      (s.after i).mem = s.mem.write (shadowBase + 4 * s.cmdReg.toNat) (wordBytes s.cmdVal)) ∨
    (i = .cmdSetband ∧ s.config.cmdPresent = true ∧ s.openFlag = true ∧
      (s.after i).mem = s.mem.write (shadowBase + 4 * s.config.bandReg) (wordBytes (bandArgument s.bandOfFreq))) := by
  have hu : ∀ op : State → State, s.config.cmdPresent = false → (s.withCommandUnit op).mem = s.mem := by
    intro op hc; rw [State.withCommandUnit_absent hc]; rfl
  cases i with
  | nop => exact .inl rfl
  | encode =>
    rw [State.after]
    split
    · exact .inr (.inl ⟨rfl, by rw [State.succeed_mem, State.packFrame_mem_eq, State.writeBytes_mem]⟩)
    · exact .inl rfl
  | decode =>
    rw [State.after]
    rcases s.validateThen_cases (fun t => t.unpackFrame.succeed) with ⟨_, he⟩ | ⟨_, he⟩ <;> rw [he]
    · refine .inr (.inr (.inl ⟨rfl, ?_⟩))
      rw [State.succeed_mem, State.unpackFrame_mem]
      exact congrArg (fun ws => s.mem.write sbBase (wordsBytes ws)) (State.unpackSamples_congr rfl rfl)
    · exact .inl rfl
  | check =>
    rw [State.after]
    rcases s.validateThen_cases (fun t => t.succeed) with ⟨_, he⟩ | ⟨_, he⟩ <;> rw [he] <;> exact .inl rfl
  | cmdInit =>
    cases hc : s.config.cmdPresent
    · exact .inl (hu _ hc)
    · rw [State.after]
      rw [State.withCommandUnit_present hc]
      rcases s.cmdInit_cases with ⟨_, he⟩ | ⟨ha, _, he⟩ | ⟨ha, _, he⟩ <;> rw [he]
      · exact .inl rfl
      · exact .inr (.inr (.inr (.inl ⟨rfl, rfl, ha, s.opened.loadDefaults_mem⟩)))
      · exact .inr (.inr (.inr (.inl ⟨rfl, rfl, ha, s.opened.loadDefaults_mem⟩)))
  | cmdSend =>
    cases hc : s.config.cmdPresent
    · exact .inl (hu _ hc)
    · rw [State.after]
      rw [State.withCommandUnit_present hc, State.cmdSend]
      split
      · exact .inl rfl
      · next hn =>
        rcases s.send_mem s.cmdReg.toNat s.cmdVal with h | ⟨ho, h⟩
        · exact .inl h
        · exact .inr (.inr (.inr (.inr (.inl ⟨rfl, rfl, ho, by omega, h⟩))))
  | cmdIdle =>
    cases hc : s.config.cmdPresent
    · exact .inl (hu _ hc)
    · rw [State.after]
      rw [State.withCommandUnit_present hc]
      rcases s.cmdIdle_cases with ⟨_, he⟩ | ⟨_, _, he⟩ | ⟨_, _, he⟩ <;> rw [he] <;> exact .inl rfl
  | cmdSetband =>
    cases hc : s.config.cmdPresent
    · exact .inl (hu _ hc)
    · rw [State.after]
      rw [State.withCommandUnit_present hc, State.cmdSetband]
      split
      · exact .inl rfl
      · rcases State.send_mem { s with curBand := s.bandOfFreq } s.config.bandReg (bandArgument s.bandOfFreq) with h | ⟨ho, h⟩
        · exact .inl h
        · exact .inr (.inr (.inr (.inr (.inr ⟨rfl, rfl, ho, h⟩))))
  | bandidx =>
    cases hc : s.config.cmdPresent
    · exact .inl (hu _ hc)
    · rw [State.after]
      rw [State.withCommandUnit_present hc]; exact .inl rfl

/-! The registers an operation can write. -/

/-- `CUR_BAND` and `BAND_OUT` after an operation: as before, or the band index of the frequency operand (R182, R187). -/
theorem State.after_bands (s : State) (i : Instr) :
    ((s.after i).curBand = s.curBand ∨ (i = .cmdSetband ∧ s.config.cmdPresent = true ∧ (s.after i).curBand = s.bandOfFreq)) ∧
    ((s.after i).bandOut = s.bandOut ∨ (i = .bandidx ∧ s.config.cmdPresent = true ∧ (s.after i).bandOut = s.bandOfFreq)) := by
  have hv : ∀ k : State → State, (∀ t, (k t).curBand = t.curBand ∧ (k t).bandOut = t.bandOut) →
      (s.validateThen k).curBand = s.curBand ∧ (s.validateThen k).bandOut = s.bandOut := by
    intro k hk
    rcases s.validateThen_cases k with ⟨_, he⟩ | ⟨_, he⟩ <;> rw [he]
    · exact hk _
    · exact ⟨rfl, rfl⟩
  have hs : ∀ (t : State) (r : Nat) (v : Word), (t.send r v).curBand = t.curBand ∧ (t.send r v).bandOut = t.bandOut := by
    intro t r v
    rcases t.send_cases r v with ⟨_, he⟩ | ⟨_, _, he⟩ | ⟨_, _, he⟩ <;> rw [he] <;> exact ⟨rfl, rfl⟩
  have hu : ∀ op : State → State, s.config.cmdPresent = false →
      (s.withCommandUnit op).curBand = s.curBand ∧ (s.withCommandUnit op).bandOut = s.bandOut := by
    intro op hc; rw [State.withCommandUnit_absent hc]; exact ⟨rfl, rfl⟩
  have same : ∀ t : State, t.curBand = s.curBand ∧ t.bandOut = s.bandOut →
      (t.curBand = s.curBand ∨ (i = .cmdSetband ∧ s.config.cmdPresent = true ∧ t.curBand = s.bandOfFreq)) ∧
      (t.bandOut = s.bandOut ∨ (i = .bandidx ∧ s.config.cmdPresent = true ∧ t.bandOut = s.bandOfFreq)) :=
    fun t h => ⟨.inl h.1, .inl h.2⟩
  cases i with
  | nop => exact same _ ⟨rfl, rfl⟩
  | encode => refine same _ ?_; rw [State.after]; split <;> exact ⟨rfl, rfl⟩
  | decode => exact same _ (hv _ fun _ => ⟨rfl, rfl⟩)
  | check => exact same _ (hv _ fun _ => ⟨rfl, rfl⟩)
  | cmdInit =>
    refine same _ ?_
    cases hc : s.config.cmdPresent
    · exact hu _ hc
    · rw [State.after]
      rw [State.withCommandUnit_present hc]
      rcases s.cmdInit_cases with ⟨_, he⟩ | ⟨_, _, he⟩ | ⟨_, _, he⟩ <;> rw [he] <;> exact ⟨rfl, rfl⟩
  | cmdSend =>
    refine same _ ?_
    cases hc : s.config.cmdPresent
    · exact hu _ hc
    · rw [State.after]
      rw [State.withCommandUnit_present hc, State.cmdSend]
      split
      · exact ⟨rfl, rfl⟩
      · exact hs _ _ _
  | cmdIdle =>
    refine same _ ?_
    cases hc : s.config.cmdPresent
    · exact hu _ hc
    · rw [State.after]
      rw [State.withCommandUnit_present hc]
      rcases s.cmdIdle_cases with ⟨_, he⟩ | ⟨_, _, he⟩ | ⟨_, _, he⟩ <;> rw [he] <;> exact ⟨rfl, rfl⟩
  | cmdSetband =>
    cases hc : s.config.cmdPresent
    · rw [← hc]; exact same _ (hu _ hc)
    · rw [State.after]
      rw [State.withCommandUnit_present hc, State.cmdSetband]
      split
      · exact ⟨.inl rfl, .inl rfl⟩
      · obtain ⟨h1, h2⟩ := hs { s with curBand := s.bandOfFreq } s.config.bandReg (bandArgument s.bandOfFreq)
        exact ⟨.inr ⟨rfl, rfl, h1⟩, .inl h2⟩
  | bandidx =>
    cases hc : s.config.cmdPresent
    · rw [← hc]; exact same _ (hu _ hc)
    · rw [State.after]
      rw [State.withCommandUnit_present hc]
      exact ⟨.inl rfl, .inr ⟨rfl, rfl, rfl⟩⟩

/-- The inner send completes with success or with TransportWriteFailure (R183). -/
theorem State.send_status (s : State) (r : Nat) (v : Word) : (s.send r v).status = 0x003 ∨ (s.send r v).status = 0x021 := by
  rcases s.send_cases r v with ⟨_, he⟩ | ⟨_, _, he⟩ | ⟨_, _, he⟩ <;> rw [he]
  · exact .inr rfl
  · exact .inr rfl
  · exact .inl rfl

/-- A failed validation reports one of three words (R153, R221). -/
theorem State.badFrame_status (s : State) (h : s.frameValid = false) :
    errorStatus (.frameValidationFailure s.badMagic s.badCrc) = 0x131 ∨
    errorStatus (.frameValidationFailure s.badMagic s.badCrc) = 0x231 ∨
    errorStatus (.frameValidationFailure s.badMagic s.badCrc) = 0x331 := by
  simp only [State.frameValid] at h
  cases hm : s.badMagic <;> cases hc : s.badCrc
  · simp [hm, hc] at h
  · exact .inr (.inl rfl)
  · exact .inl rfl
  · exact .inr (.inr rfl)

/-- The band index fits its 8-bit register (R32, R33, R181(b)). -/
theorem State.bandOfFreq_toNat (s : State) : s.bandOfFreq.toNat = (bandIndex s.config s.cmdFreq).val := by
  have := (bandIndex s.config s.cmdFreq).isLt
  simp only [State.bandOfFreq, BitVec.toNat_ofNat]
  omega

/-! Where the memory after a write has bytes. -/

/-- Every byte of a stored range has been written, and every byte written before still is. -/
theorem Memory.read_write_ne_none {m : Memory} {a : Nat} {bs : List Byte} {c : Nat}
    (h : (a ≤ c ∧ c < a + bs.length) ∨ m.read c ≠ none) : (m.write a bs).read c ≠ none := by
  rw [Memory.read_write]
  split
  · next hc =>
    have hlt : c - a < bs.length := by omega
    simp [List.getElem?_eq_getElem hlt]
  · next hc => exact h.resolve_left hc

end Sys2Proof.Machine
end

