-- ==== Sys2Proof/Laws/PerInstr.lean ====
section
/-! SUPPORT. For all operations, one lemma per constructor: the OP word of an operation has its upper bits zero (30_encoding.md R90) and
the operation has no ill-formed term. -/

namespace Sys2Proof.Laws.OpWord

/-- Every operation is well formed, and its OP word keeps the format's zero field. -/
def Statement (i : Sys2Proof.Instr) : Prop :=
  i.wellFormed = true ∧ Sys2Proof.zeroField (Sys2Proof.encode i) = 0

theorem nop : Statement .nop := ⟨rfl, rfl⟩
theorem encode : Statement .encode := ⟨rfl, rfl⟩
theorem decode : Statement .decode := ⟨rfl, rfl⟩
theorem check : Statement .check := ⟨rfl, rfl⟩
theorem cmdInit : Statement .cmdInit := ⟨rfl, rfl⟩
theorem cmdSend : Statement .cmdSend := ⟨rfl, rfl⟩
theorem cmdIdle : Statement .cmdIdle := ⟨rfl, rfl⟩
theorem cmdSetband : Statement .cmdSetband := ⟨rfl, rfl⟩
theorem bandidx : Statement .bandidx := ⟨rfl, rfl⟩

end Sys2Proof.Laws.OpWord
end

