-- ==== Sys2Proof/Laws/Step.lean ====
section
/-! SUPPORT. What a step can do: wait, answer a read, answer a write, run an operation, or reset. -/

namespace Sys2Proof.Machine

/-- The state with the oldest input taken off. -/
def State.popped (s : State) (rest : List Input) : State := { s with port := rest }

theorem step_idle {s : State} (h : s.port = []) : step s = .next s := by simp [step, h]

theorem step_serve {s : State} {i : Input} {rest : List Input} (h : s.port = i :: rest) :
    step s = (s.popped rest).serve i := by simp [step, h, State.popped]

/-- Every next state of a step, by the input served. -/
theorem step_cases {s t : State} (h : step s = .next t) :
    (s.port = [] ∧ t = s) ∨
    (∃ off rest, s.port = .hostRead off :: rest ∧
      t = (s.popped rest).logHost (.hostRead off) ((s.popped rest).hostRead off)) ∨
    (∃ rest, s.port = .reset :: rest ∧ t = (s.popped rest).applyReset) ∨
    (∃ off v rest, s.port = .hostWrite off v :: rest ∧ locate s.config off = none ∧
      t = (s.popped rest).logHost (.hostWrite off v) .slaveError) ∨
    (∃ off v rest l, s.port = .hostWrite off v :: rest ∧ locate s.config off = some l ∧ l ≠ .op ∧
      t = ((s.popped rest).writeLocation l v).logHost (.hostWrite off v) .writeOk) ∨
    (∃ off v rest i, s.port = .hostWrite off v :: rest ∧ locate s.config off = some .op ∧ decode v = .ok i ∧
      t = ((s.popped rest).after i).logHost (.hostWrite off v) .writeOk) ∨
    (∃ off v rest e, s.port = .hostWrite off v :: rest ∧ locate s.config off = some .op ∧ decode v = .error e ∧
      t = ((s.popped rest).raise .illegalOp).logHost (.hostWrite off v) .writeOk) := by
  cases hp : s.port with
  | nil =>
    rw [step_idle hp] at h
    injection h with h
    exact .inl ⟨rfl, h.symm⟩
  | cons i rest =>
    rw [step_serve hp] at h
    cases i with
    | hostRead off =>
      injection h with h
      exact .inr (.inl ⟨off, rest, rfl, h.symm⟩)
    | reset =>
      injection h with h
      exact .inr (.inr (.inl ⟨rest, rfl, h.symm⟩))
    | hostWrite off v =>
      simp only [State.serve, State.hostWrite, State.popped] at h
      cases hl : locate s.config off with
      | none =>
        rw [hl] at h
        injection h with h
        exact .inr (.inr (.inr (.inl ⟨off, v, rest, rfl, hl, h.symm⟩)))
      | some l =>
        rw [hl] at h
        by_cases hop : l = .op
        · subst hop
          simp only [State.runOp] at h
          cases hd : decode v with
          | ok i =>
            rw [hd] at h
            simp only [exec_eq_after, mapNext] at h
            injection h with h
            exact .inr (.inr (.inr (.inr (.inr (.inl ⟨off, v, rest, i, rfl, hl, hd, h.symm⟩)))))
          | error e =>
            rw [hd] at h
            simp only [mapNext] at h
            injection h with h
            exact .inr (.inr (.inr (.inr (.inr (.inr ⟨off, v, rest, e, rfl, hl, hd, h.symm⟩)))))
        · refine .inr (.inr (.inr (.inr (.inl ⟨off, v, rest, l, rfl, hl, hop, ?_⟩))))
          cases l <;> first | exact absurd rfl hop | (injection h with h; exact h.symm)

end Sys2Proof.Machine
end

