-- ==== Sys2Proof/Machine/Trace.lean ====
section
/-! DEFINITION. The trace notation of 30_encoding.md R104 and the pseudo-lines of R105, as inputs of the machine. -/

namespace Sys2Proof.Machine

/-- One line of a trace (R104). `rd` carries no expected word: that is a test's, not the machine's. -/
inductive TraceLine where
  /-- `WR <location>, <value>`. -/
  | wr (l : Location) (v : Word)
  /-- `RD <location>`. -/
  | rd (l : Location)
  /-- `<MNEMONIC>`. -/
  | op (i : Instr)
  /-- `ENV open=<ok|fail>`. -/
  | envOpen (ok : Bool)
  /-- `ENV write=<ok|fail>`. -/
  | envWrite (ok : Bool)
deriving DecidableEq, Repr

/-- The host access a line encodes: "the triple (kind, offset, value)"; `ENV` lines are not host accesses (R104). -/
def TraceLine.access : TraceLine → Option Input
  | .wr l v => some (.hostWrite l.offset v)
  | .rd l => some (.hostRead l.offset)
  | .op i => some (.hostWrite Location.op.offset (encode i))
  | .envOpen _ => none
  | .envWrite _ => none

/-- The answer an `ENV open` line fixes. -/
def TraceLine.openAnswer? : TraceLine → Option Bool
  | .envOpen ok => some ok
  | .wr _ _ | .rd _ | .op _ | .envWrite _ => none

/-- The answer an `ENV write` line fixes. -/
def TraceLine.writeAnswer? : TraceLine → Option Bool
  | .envWrite ok => some ok
  | .wr _ _ | .rd _ | .op _ | .envOpen _ => none

/-- A trace given to the machine: its accesses behind the pending inputs, its answers behind the ready ones (log entry 17). -/
def State.loadTrace (s : State) (t : List TraceLine) : State :=
  { s with
    port := s.port ++ t.filterMap TraceLine.access
    openAnswers := s.openAnswers ++ t.filterMap TraceLine.openAnswer?
    writeAnswers := s.writeAnswers ++ t.filterMap TraceLine.writeAnswer? }

/-- `PUTFRAME <bytes b[0..4135]>` (R105). -/
def putFrame (b : List Byte) : List TraceLine :=
  (List.range 1034).map fun w => .wr (.frame w) (BitVec.ofNat 32 (leNumber ((b.drop (4 * w)).take 4)))

/-- `GETFRAME` (R105). -/
def getFrame : List TraceLine := (List.range 1034).map fun w => .rd (.frame w)

/-- `PUTSAMPLES <words s[0..1023]>` (R105). -/
def putSamples (ws : List Word) : List TraceLine :=
  (List.range sampleWords).map fun k => .wr (.sample k) (ws.getD k 0)

/-- `SEND r, v` (R105). -/
def sendLines (r v : Word) : List TraceLine := [.wr .cmdReg r, .wr .cmdVal v, .op .cmdSend]

/-- `SETBAND f` (R105). -/
def setBandLines (f : Word) : List TraceLine := [.wr .cmdFreq f, .op .cmdSetband]

/-- `BAND f` (R105). -/
def bandLines (f : Word) : List TraceLine := [.wr .cmdFreq f, .op .bandidx, .rd .bandOut]

end Sys2Proof.Machine
end

