-- ==== Sys2Proof/Tests/Slice0.lean ====
section
/-! SUPPORT. Tests whose expected values come from spec/95_test_vectors.md (or are worked out by hand from the rule named), and one witness
for the hypotheses of every statement that has some. -/

open Sys2Proof Sys2Proof.Machine

namespace Sys2Proof.Tests

/-! One declaration at a time: many kernel evaluations at once would need too much memory. -/
set_option Elab.async false

/-! The reference configuration of spec/95_test_vectors.md, with a ladder that meets R181. -/

def refCfg : Cfg :=
  { magic := 0xAA5555AA, cmdPresent := true, nReg := 3, bandReg := 2,
    defaults := [0x00D6C090, 0x00000001, 0x00000000, 0xFFFFFFFF], burstHdr0 := 0x00, burstHdr1 := 0x00,
    bandLadder := [⟨1800000, false, 0⟩, ⟨2000000, true, 1⟩, ⟨21000000, false, 2⟩, ⟨21450000, false, 15⟩, ⟨54000000, true, 21⟩],
    bandLast := 22, crc := CrcParams.decided }

def ref : WfCfg := { raw := refCfg, wf := by decide +kernel }

/-- The reference configuration without the command unit (R39). -/
def refNoUnit : WfCfg := { raw := { refCfg with cmdPresent := false }, wf := by decide +kernel }

/-- The reference configuration with another magic word. -/
def refOtherMagic : WfCfg := { raw := { refCfg with magic := 0x00000000 }, wf := by decide +kernel }

/-- The reference machine right after reset. -/
def s0 : State := State.initial ref

/-- The machine without the command unit right after reset. -/
def n0 : State := State.initial refNoUnit

/-- The reference machine with one input pending. -/
def pending (i : Input) : State := { s0 with port := [i] }

/-- The reference machine, open, its shadow table holding the defaults, the next writes answered as listed. -/
def opened (writes : List Bool) : State := { s0.loadDefaults with openFlag := true, writeAnswers := writes }

/-- The state after an operation. -/
def run (i : Instr) (s : State) : State := s.after i

theorem run_is_exec (i : Instr) (s : State) : exec i s = .next (run i s) := exec_eq_after i s

/-- The state after a step. -/
def served (s : State) : State :=
  match step s with
  | .next t => t
  | .fault _ => s
  | .refused _ => s

/-! Well-formed configurations: one ill-formed term for each check (R8, R9, R10, R181). -/

theorem test_refCfg_wellFormed : refCfg.wellFormed = true := by decide +kernel
theorem test_wf_refuses_nReg : { refCfg with nReg := 16384 }.nRegFits = false ∧ { refCfg with nReg := 16384 }.wellFormed = false ∧
    { refCfg with nReg := 16383 }.wellFormed = true := by decide +kernel
theorem test_wf_refuses_bandReg : { refCfg with bandReg := 4 }.bandRegIsRegister = false ∧ { refCfg with bandReg := 4 }.wellFormed = false ∧
    { refCfg with bandReg := 3 }.wellFormed = true := by decide +kernel
theorem test_wf_refuses_unordered : ladderOrdered [⟨5, true, 0⟩, ⟨5, false, 1⟩] = false ∧ ladderOrdered [⟨6, false, 0⟩, ⟨5, false, 1⟩] = false ∧
    ladderOrdered [⟨5, false, 0⟩, ⟨5, true, 1⟩] = true ∧
    { refCfg with bandLadder := refCfg.bandLadder ++ [Rung.mk 30000000 true 21] }.wellFormed = false := by decide +kernel
theorem test_wf_refuses_beginning : ladderBegins [⟨1800000, true, 0⟩, ⟨2000000, true, 1⟩] = false ∧ ladderBegins [⟨1800000, false, 0⟩] = false ∧
    { refCfg with bandLadder := Rung.mk 100 true 0 :: refCfg.bandLadder }.wellFormed = false ∧ ladderOrdered (⟨100, true, 0⟩ :: refCfg.bandLadder) = true :=
  by decide +kernel
theorem test_wf_refuses_bindingPoints : { refCfg with bandLast := 21 }.bindingPoints = false ∧ { refCfg with bandLast := 21 }.wellFormed = false :=
  by decide +kernel
theorem test_wf_refuses_crc : { refCfg with crc := { CrcParams.decided with refin := false } }.crcDecided = false ∧
    { refCfg with crc := { CrcParams.decided with refin := false } }.wellFormed = false := by decide +kernel

/-- R10, U10: an ill-formed configuration is refused, a well-formed one starts the machine. -/
theorem test_configure :
    State.configure { refCfg with nReg := 16384 } = .refused .illFormedConfiguration ∧ State.configure refCfg = .next s0 :=
  ⟨dif_neg (by decide +kernel), dif_pos ref.wf⟩

/-! OP words, written out from the format of R90 (bits 31:8 zero, opcode in bits 7:0) and the opcodes of R91. -/

theorem test_decode_words :
    decode 0b00000000000000000000000000000000 = .ok .nop ∧ decode 0b00000000000000000000000000000001 = .ok .encode ∧
    decode 0b00000000000000000000000000000010 = .ok .decode ∧ decode 0b00000000000000000000000000000011 = .ok .check ∧
    decode 0b00000000000000000000000000010000 = .ok .cmdInit ∧ decode 0b00000000000000000000000000010001 = .ok .cmdSend ∧
    decode 0b00000000000000000000000000010010 = .ok .cmdIdle ∧ decode 0b00000000000000000000000000010011 = .ok .cmdSetband ∧
    decode 0b00000000000000000000000000010100 = .ok .bandidx := ⟨rfl, rfl, rfl, rfl, rfl, rfl, rfl, rfl, rfl⟩

/-- R92: a non-zero upper bit, and the neighbours of the nine opcodes. -/
theorem test_decode_illegal :
    decode 0x00000100 = .error .upperBitsNonZero ∧ decode 0x80000001 = .error .upperBitsNonZero ∧
    decode 0x00000004 = .error .reservedOpcode ∧ decode 0x0000000F = .error .reservedOpcode ∧
    decode 0x00000015 = .error .reservedOpcode ∧ decode 0x000000FF = .error .reservedOpcode := ⟨rfl, rfl, rfl, rfl, rfl, rfl⟩

theorem test_decodeTableWord (i : Instr) : decodeTableWord 32 (encode i).toNat = some i := by cases i <;> rfl

/-- The word placed by `withFetchWord` runs in the very next step after reset. -/
theorem test_withFetchWord (i : Instr) :
    step (State.reset.withFetchWord 32 (encode i).toNat) =
      mapNext (exec i State.reset) fun t => t.logHost (.hostWrite 0 (encode i)) .writeOk := by cases i <;> rfl

/-! CRC vectors (spec/95_test_vectors.md, section 2). -/

theorem test_crc_vectors :
    crc32 [] = 0x00000000 ∧ crc32 [0x00] = 0xD202EF8D ∧ crc32 [0x01] = 0xA505DF1B ∧ crc32 [0xFF] = 0xFF000000 ∧
    crc32 [0x61] = 0xE8B7BE43 := by decide +kernel

theorem test_crc_general :
    crc32General CrcParams.decided [0x00] = 0xD202EF8D ∧ crc32General CrcParams.decided [0x61] = 0xE8B7BE43 := by decide +kernel

/-- The CRC of frame F1, in eight parts of 516 zero bytes behind the magic word. -/
theorem crc_zeros_step :
    [0xAA, 0x55, 0x55, 0xAA].foldl crcByte 0xFFFFFFFF = 0x67d5d63e ∧
    (List.replicate 516 0).foldl crcByte 0x67d5d63e = 0xf7e9908d ∧ (List.replicate 516 0).foldl crcByte 0xf7e9908d = 0x32c80f17 ∧
    (List.replicate 516 0).foldl crcByte 0x32c80f17 = 0x81e0c8c6 ∧ (List.replicate 516 0).foldl crcByte 0x81e0c8c6 = 0xf88cf250 := by
  set_option maxRecDepth 100000 in decide +kernel

theorem crc_zeros_step' :
    (List.replicate 516 0).foldl crcByte 0xf88cf250 = 0x84ef2d2b ∧ (List.replicate 516 0).foldl crcByte 0x84ef2d2b = 0x394b33e4 ∧
    (List.replicate 516 0).foldl crcByte 0x394b33e4 = 0xe5ef3dd3 ∧ (List.replicate 516 0).foldl crcByte 0xe5ef3dd3 = 0x18cf1f5a := by
  set_option maxRecDepth 100000 in decide +kernel

theorem replicate_zeros : (List.replicate 4128 0 : List Byte) = List.replicate 516 0 ++ (List.replicate 516 0 ++ (List.replicate 516 0 ++
    (List.replicate 516 0 ++ (List.replicate 516 0 ++ (List.replicate 516 0 ++ (List.replicate 516 0 ++ List.replicate 516 0)))))) := by
  simp only [List.replicate_append_replicate]

theorem wordsBytes_zeros (n : Nat) : wordsBytes (List.replicate n 0) = List.replicate (4 * n) 0 := by
  induction n with
  | zero => rfl
  | succ n ih =>
    rw [List.replicate_succ, Nat.mul_succ, Nat.add_comm, ← List.replicate_append_replicate, ← ih]
    rfl

/-- The first 4132 bytes of frame F1: the magic word and zeros. -/
theorem span_F1 : packSpan 0xAA5555AA (List.replicate 1024 0) FieldRegs.zero = [0xAA, 0x55, 0x55, 0xAA] ++ List.replicate 4128 0 := by
  have ht : wordBytes FieldRegs.zero.flags = List.replicate 4 0 ∧ FieldRegs.zero.telemetry = List.replicate 8 0 ∧
      wordBytes FieldRegs.zero.atu = List.replicate 4 0 ∧ wordBytes 0xAA5555AA = [0xAA, 0x55, 0x55, 0xAA] ∧
      wordsBytes [FieldRegs.zero.rsv3_0, FieldRegs.zero.rsv3_1, FieldRegs.zero.rsv3_2, FieldRegs.zero.rsv3_3] = List.replicate 16 0 := by
    decide +kernel
  obtain ⟨h1, h2, h3, h4, h5⟩ := ht
  rw [packSpan, h1, h2, h3, h4, h5, wordsBytes_zeros]
  simp only [List.append_assoc, List.replicate_append_replicate]

/-- Frame F1 (spec/95_test_vectors.md, section 3): `CRC_CALC` = `0xE730E0A5`. -/
theorem test_crc_F1 : crc32 (packSpan 0xAA5555AA (List.replicate 1024 0) FieldRegs.zero) = 0xE730E0A5 := by
  obtain ⟨h0, h1, h2, h3, h4⟩ := crc_zeros_step
  obtain ⟨h5, h6, h7, h8⟩ := crc_zeros_step'
  rw [span_F1, replicate_zeros, crc32, crcRegister]
  simp only [List.foldl_append, h0, h1, h2, h3, h4, h5, h6, h7, h8]
  decide

/-! The Flow Frame (spec/95_test_vectors.md, section 3). -/

/-- The tail of frame F3 from byte 4100 to 4131. -/
theorem test_layout_F3 :
    (packSpan 0xAA5555AA [] {
        flags := 0x8000000F, rsv1 := 0xA5, txpwr := 255, vswr := 0, alc := 1, vext := 2, vbat := 3, batcap := 100
        rsv2 := 0x5A, atu := 0xDEADBEEF, rsv3_0 := 0x11111111, rsv3_1 := 0x22222222, rsv3_2 := 0x33333333, rsv3_3 := 0x44444444 }) =
      [0xAA, 0x55, 0x55, 0xAA, 0x0F, 0x00, 0x00, 0x80, 0xA5, 0xFF, 0x00, 0x01, 0x02, 0x03, 0x64, 0x5A, 0xEF, 0xBE, 0xAD, 0xDE,
        0x11, 0x11, 0x11, 0x11, 0x22, 0x22, 0x22, 0x22, 0x33, 0x33, 0x33, 0x33, 0x44, 0x44, 0x44, 0x44] := by decide +kernel

/-- The samples of F2 and F1's NaN variant, least significant byte first. -/
theorem test_sample_bytes : wordsBytes [0x3F800001, 0xBF800100, 0x7FC00001] =
    [0x01, 0x00, 0x80, 0x3F, 0x00, 0x01, 0x80, 0xBF, 0x01, 0x00, 0xC0, 0x7F] := by decide +kernel

/-- `FBW[1026]` of frame F2 from its bytes. -/
theorem test_frame_word :
    (s0.writeBytes (fbBase + 4104) [0x00, 0x32, 0x0C, 0xC8, 0x8A, 0x52, 0x61, 0x00]).hostRead 0x3008 = .readOk 0xC80C3200 := by
  decide +kernel

/-- `FB[4117]` of a word written through the window (R66). -/
theorem test_frame_window_write :
    (served (pending (.hostWrite 0x3014 0x11223344))).fb 4117 = 0x33 ∧ (served (pending (.hostWrite 0x3014 0x11223344))).fb 4119 = 0x11 := by
  decide +kernel

/-- ENCODE with `NSAMP` = 0, 511, 513, `0x00010200`. -/
theorem test_encode_precondition :
    (run .encode s0).statusWord = 0x41 ∧ (run .encode { s0 with nsamp := 511 }).statusWord = 0x41 ∧
    (run .encode { s0 with nsamp := 513 }).statusWord = 0x41 ∧ (run .encode { s0 with nsamp := 0x00010200 }).statusWord = 0x41 := by
  decide +kernel

/-! The host port (spec/95_test_vectors.md, "Other codec corner cases"). -/

theorem test_status_reset : s0.hostRead 0x4 = .readOk 0x00000000 := by decide +kernel
theorem test_illegal_op_words :
    (served (pending (.hostWrite 0 0x100))).statusWord = 0x51 ∧ (served (pending (.hostWrite 0 0x4))).statusWord = 0x51 := by
  decide +kernel
theorem test_nop_after_error : (run .nop (run .encode s0)).statusWord = 0x3 := by decide +kernel
theorem test_eight_bit_register : (served (pending (.hostWrite 0x18 0x12345678))).hostRead 0x18 = .readOk 0x78 := by decide +kernel
theorem test_status_is_read_only : (served (pending (.hostWrite 0x4 0xFFFFFFFF))).hostRead 0x4 = .readOk 0 := by decide +kernel
theorem test_slaveError : s0.hostRead 0x2 = .slaveError ∧ s0.hostRead 0x48 = .slaveError ∧ n0.hostRead 0x80 = .slaveError := by
  decide +kernel

/-! Wire formats (spec/95_test_vectors.md, section 4). -/

theorem test_wire_cmd :
    wireCmd 0 0 = [0x00, 0x00, 0x00, 0x00, 0x00, 0x00] ∧ wireCmd 1 0x00D6C090 = [0x00, 0x04, 0x90, 0xC0, 0xD6, 0x00] ∧
    wireCmd 64 1 = [0x01, 0x00, 0x01, 0x00, 0x00, 0x00] ∧ wireCmd 100 0xF00 = [0x01, 0x90, 0x00, 0x0F, 0x00, 0x00] ∧
    wireCmd 16383 0xA1B2C3D4 = [0xFF, 0xFC, 0xD4, 0xC3, 0xB2, 0xA1] := by decide +kernel

theorem test_band_argument : bandArgument 0 = 0 ∧ bandArgument 1 = 0x100 ∧ bandArgument 15 = 0xF00 ∧ bandArgument 22 = 0x1600 := by
  decide +kernel

theorem test_burst : burstBytes refCfg [0x00D6C090, 1, 0, 0x12345678] =
    [0x00, 0x00, 0x90, 0xC0, 0xD6, 0x00, 0x01, 0x00, 0x00, 0x00, 0x00, 0x00, 0x00, 0x00, 0x78, 0x56, 0x34, 0x12] := by decide +kernel

theorem test_band_index :
    bandIndex refCfg 0 = 0 ∧ bandIndex refCfg 1799999 = 0 ∧ bandIndex refCfg 1800000 = 1 ∧ bandIndex refCfg 2000000 = 1 ∧
    bandIndex refCfg 2000001 = 2 ∧ bandIndex refCfg 21449999 = 15 ∧ bandIndex refCfg 54000001 = 22 := by decide +kernel

theorem test_status_words :
    successStatus = 0x003 ∧ errorStatus .transportOpenFailure = 0x011 ∧ errorStatus .transportWriteFailure = 0x021 ∧
    errorStatus (.frameValidationFailure true false) = 0x131 ∧ errorStatus (.frameValidationFailure false true) = 0x231 ∧
    errorStatus (.frameValidationFailure true true) = 0x331 ∧ errorStatus .structuralPrecondition = 0x041 ∧
    errorStatus .illegalOp = 0x051 := by decide +kernel

/-! The command unit, one operation each (spec/95_test_vectors.md, programs P3 and P4). -/

/-- P3 lines 3 to 6. -/
theorem test_cmdInit :
    (run .cmdInit { s0 with openAnswers := [true], writeAnswers := [true] }).statusWord = 0x1003 ∧
    (run .cmdInit { s0 with openAnswers := [true], writeAnswers := [true] }).shadow 0 = 0x00D6C090 ∧
    (run .cmdInit { s0 with openAnswers := [true], writeAnswers := [true] }).busLog = [.openReq true, .writeReq [0x00, 0x00, 0x90,
      0xC0, 0xD6, 0x00, 0x01, 0x00, 0x00, 0x00, 0x00, 0x00, 0x00, 0x00, 0xFF, 0xFF, 0xFF, 0xFF] true] := by decide +kernel

/-- P4 line 13. -/
theorem test_cmdInit_refused :
    (run .cmdInit { opened [] with openAnswers := [false] }).statusWord = 0x11 ∧
    (run .cmdInit { opened [] with openAnswers := [false] }).shadow 0 = 0x00D6C090 := by decide +kernel

/-- P3 lines 8 to 10. -/
theorem test_cmdSend :
    (run .cmdSend { opened [true] with cmdReg := 3, cmdVal := 0x12345678 }).shadow 3 = 0x12345678 ∧
    (run .cmdSend { opened [true] with cmdReg := 3, cmdVal := 0x12345678 }).busLog =
      [.writeReq [0x00, 0x0C, 0x78, 0x56, 0x34, 0x12] true] := by decide +kernel

/-- P3 lines 1 and 2, and 12 to 16. -/
theorem test_cmdSend_failures :
    (run .cmdSend { s0 with cmdReg := 3 }).statusWord = 0x21 ∧
    (run .cmdSend { opened [false] with cmdReg := 1, cmdVal := 0xCAFEF00D }).statusWord = 0x1021 ∧
    (run .cmdSend { opened [false] with cmdReg := 1, cmdVal := 0xCAFEF00D }).shadow 1 = 1 ∧
    (run .cmdSend { opened [] with cmdReg := 4 }).statusWord = 0x1041 := by decide +kernel

/-- P3 lines 18 to 22. -/
theorem test_cmdIdle :
    (run .cmdIdle (opened [true])).statusWord = 0x1003 ∧ (run .cmdIdle (opened [false])).statusWord = 0x1021 ∧
    (run .cmdIdle (opened [false])).busLog = [.writeReq [0x00, 0x00, 0x90, 0xC0, 0xD6, 0x00, 0x01, 0x00, 0x00, 0x00, 0x00, 0x00,
      0x00, 0x00, 0xFF, 0xFF, 0xFF, 0xFF] false] := by decide +kernel

/-- P4 line 3. -/
theorem test_cmdSetband :
    (run .cmdSetband { opened [true] with cmdFreq := 1900000 }).curBand = 1 ∧
    (run .cmdSetband { opened [true] with cmdFreq := 1900000 }).shadow 2 = 0x100 ∧
    (run .cmdSetband { opened [true] with cmdFreq := 1900000 }).busLog = [.writeReq [0x00, 0x08, 0x00, 0x01, 0x00, 0x00] true] := by
  decide +kernel

/-- P4 lines 7 and 8. -/
theorem test_cmdSetband_failure :
    (run .cmdSetband { opened [false] with cmdFreq := 2000001 }).statusWord = 0x1021 ∧
    (run .cmdSetband { opened [false] with cmdFreq := 2000001 }).curBand = 2 ∧
    (run .cmdSetband (run .cmdSetband { opened [false] with cmdFreq := 2000001 })).statusWord = 0x1003 := by decide +kernel

/-- P4 line 11. -/
theorem test_bandidx : (run .bandidx { s0 with cmdFreq := 1800000 }).hostRead 0x8C = .readOk 1 := by decide +kernel

/-! The trace notation (30_encoding.md R104, R105). -/

/-- `SETBAND 1_900_000` as P4 encodes it. -/
theorem test_trace_setband :
    (setBandLines 0x001CFDE0).filterMap TraceLine.access = [.hostWrite 0x88 0x001CFDE0, .hostWrite 0 0x13] := by decide +kernel

/-! Witnesses: for each statement with hypotheses, a state and operands that meet them together, clause by clause. -/

theorem witness_IllegalOpWordChangesOnlyStatus :
    ((pending (.hostWrite 0 0x100)).port = .hostWrite 0 0x100 :: [] ∧ (0x100 : Word).extractLsb' 8 24 ≠ 0) ∧
    ((pending (.hostWrite 0 0x4)).port = .hostWrite 0 0x4 :: [] ∧
      (0x4 : Word).extractLsb' 0 8 ∉ [(0x00 : Byte), 0x01, 0x02, 0x03, 0x10, 0x11, 0x12, 0x13, 0x14]) ∧
    ({ n0 with port := [.hostWrite 0 0x14] }.port = .hostWrite 0 0x14 :: [] ∧ n0.config.cmdPresent = false ∧
      (0x14 : Word) ∈ [(0x10 : Word), 0x11, 0x12, 0x13, 0x14]) := by decide +kernel

theorem witness_CommandUnitAbsentIsIllegal :
    n0.config.cmdPresent = false ∧ ∀ i ∈ [Instr.cmdInit, .cmdSend, .cmdIdle, .cmdSetband, .bandidx], run i n0 = { n0 with status := 0x051 } := by
  decide +kernel

theorem witness_StepRunsTheDecodedOperation (i : Instr) :
    (pending (.hostWrite 0 (encode i))).port = .hostWrite 0 (encode i) :: [] ∧ decode (encode i) = .ok i := by cases i <;> exact ⟨rfl, rfl⟩

theorem witness_WaitingStepKeepsTheState : s0.port = [] := rfl

theorem witness_ResetEventRestoresTheResetValues : (pending .reset).port = .reset :: [] := rfl

/-- One configuration for each clause. -/
theorem witness_IllFormedConfigurationIsRefused :
    16383 < { refCfg with nReg := 16384 }.nReg ∧ { refCfg with bandReg := 4 }.nReg < { refCfg with bandReg := 4 }.bandReg ∧
    { refCfg with crc := { CrcParams.decided with init := 0 } }.crc ≠ CrcParams.decided ∧
    ({ refCfg with bandLadder := [⟨5, true, 0⟩, ⟨5, true, 1⟩] }.bandLadder = [] ++ ⟨5, true, 0⟩ :: ⟨5, true, 1⟩ :: [] ∧
      (Rung.mk 5 true 1).bound = (Rung.mk 5 true 0).bound ∧ (Rung.mk 5 true 0).inclusive = true) ∧
    ((0 : Word) < 1800000 ∧ bandIndex { refCfg with bandLadder := [] } 0 ≠ 0) ∧
    ((1800000 : Word) ≤ 1800000 ∧ (1800000 : Word) ≤ 2000000 ∧ bandIndex { refCfg with bandLadder := [] } 1800000 ≠ 1) ∧
    bandIndex { refCfg with bandLadder := [] } 2000001 ≠ 2 ∧ bandIndex { refCfg with bandLadder := [] } 21449999 ≠ 15 ∧
    bandIndex { refCfg with bandLast := 21 } 54000001 ≠ 22 := by decide +kernel

/-- One offset at each end of every unmapped range; the neighbours just outside the ranges are mapped. -/
theorem witness_UnmappedAccessIsSlaveError :
    (∀ off ∈ [0x2, 0x7FF, 0x20000, 0x48, 0x7C, 0x94, 0xFFC, 0x3028, 0xFFFC, 0x10010, 0x1FFFC],
      off % 4 ≠ 0 ∨ 0x20000 ≤ off ∨ (0x48 ≤ off ∧ off < 0x80) ∨ (0x94 ≤ off ∧ off < 0x1000) ∨ (0x3028 ≤ off ∧ off < 0x10000) ∨
      0x10000 + 4 * s0.config.nReg + 4 ≤ off ∧ 0x10000 ≤ off) ∧
    (∀ off ∈ [0x80, 0x90, 0x10000, 0x1000C],
      n0.config.cmdPresent = false ∧ ((0x80 ≤ off ∧ off < 0x94) ∨ 0x10000 ≤ off)) ∧
    (∀ off ∈ [0x0, 0x44, 0x80, 0x90, 0x1000, 0x1FFC, 0x2000, 0x3024, 0x10000, 0x1000C], locate s0.config off ≠ none) ∧
    (pending (.hostRead 0x48)).port = .hostRead 0x48 :: [] ∧ (pending (.hostWrite 0x48 1)).port = .hostWrite 0x48 1 :: [] := by
  decide +kernel

theorem witness_HostReadAtEveryMappedOffset :
    s0.config.cmdPresent = true ∧ 0 ≤ s0.config.nReg ∧ 3 ≤ s0.config.nReg ∧ locate s0.config (0x10000 + 4 * 3) = some (.shadow 3) ∧
    locate s0.config (0x1000 + 4 * 1023) = some (.sample 1023) ∧ locate s0.config (0x2000 + 4 * 1033) = some (.frame 1033) := by
  decide +kernel

theorem witness_HostReadChangesNothing : (pending (.hostRead 0x4)).port = .hostRead 0x4 :: [] := rfl

theorem witness_ReadOnlyLocationsIgnoreWrites :
    (∀ off ∈ [0x4, 0xC, 0x8C, 0x90, 0x10000 + 4 * 0, 0x10000 + 4 * 3], (pending (.hostWrite off 7)).port = .hostWrite off 7 :: []) ∧
    s0.config.cmdPresent = true ∧ 3 ≤ s0.config.nReg ∧ (pending (.hostRead 0)).port = .hostRead 0 :: [] := by decide +kernel

theorem witness_FieldRegisterKeepsItsWidth :
    ∀ i ∈ [0, 1, 8, 9, 13], i < 14 ∧ (pending (.hostWrite (0x10 + 4 * i) 0x12345678)).port = .hostWrite (0x10 + 4 * i) 0x12345678 :: [] := by
  decide +kernel

theorem witness_OperandRegistersKeepAllBits :
    s0.config.cmdPresent = true ∧
    ∀ off ∈ [0x8, 0x80, 0x84, 0x88], (pending (.hostWrite off 0xFFFFFFFF)).port = .hostWrite off 0xFFFFFFFF :: [] := by decide +kernel

theorem witness_SampleWordIsReadBack :
    ∀ k ∈ [0, 1023], k < 1024 ∧ (pending (.hostWrite (0x1000 + 4 * k) 0x7FC00001)).port = .hostWrite (0x1000 + 4 * k) 0x7FC00001 :: [] := by
  decide +kernel

theorem witness_FrameWindowIsLittleEndian :
    ∀ w ∈ [0, 1033], w ≤ 1033 ∧ (pending (.hostWrite (0x2000 + 4 * w) 0x11223344)).port = .hostWrite (0x2000 + 4 * w) 0x11223344 :: [] := by
  decide +kernel

/-- A burst of exactly 32 bits that straddles five bytes. -/
theorem witness_CrcDetectsShortBursts :
    [(0x00 : Byte), 0x00, 0x00, 0x00, 0x00].length = [(0x80 : Byte), 0x00, 0x00, 0x00, 0x40].length ∧
    [(0x00 : Byte), 0x00, 0x00, 0x00, 0x00] ≠ [0x80, 0x00, 0x00, 0x00, 0x40] ∧
    ∀ i, ([(0x00 : Byte), 0x00, 0x00, 0x00, 0x00].getD (i / 8) 0).getLsbD (i % 8) ≠
        ([(0x80 : Byte), 0x00, 0x00, 0x00, 0x40].getD (i / 8) 0).getLsbD (i % 8) → 7 ≤ i ∧ i < 7 + 32 := by
  refine ⟨rfl, by decide, fun i h => ?_⟩
  by_cases hi : i < 40
  · revert h; revert i; decide +kernel
  · obtain ⟨k, hk⟩ : ∃ k, i / 8 = k + 5 := ⟨i / 8 - 5, by omega⟩
    rw [hk] at h
    exact absurd rfl h

/-- The reference machine ready to encode. -/
def e0 : State := { s0 with nsamp := 512 }

/-- The reference machine with a valid frame in FB, the one ENCODE packs. -/
def v0 : State := e0.packFrame

theorem witness_validFrame : v0.fbWord 0 = v0.config.magic ∧ v0.fbWord 4132 = crc32 (v0.readBytes 0x2000 4132) :=
  ⟨e0.packFrame_magic, e0.packFrame_crc.trans e0.packFrame_frameCrc.symm⟩

theorem witness_EncodePacksTheFrame : e0.nsamp = 512 := rfl

theorem witness_EncodeNeedsFiveHundredTwelve : s0.nsamp ≠ 512 ∧ { s0 with nsamp := 0x00010200 }.nsamp ≠ 512 := by decide +kernel

/-- The valid frame seen by a machine with another magic word: bad magic alone. -/
def badMagic0 : State := { v0 with cfg := refOtherMagic }

/-- The valid frame with one bit of the stored CRC changed: bad CRC alone. -/
def badCrc0 : State := v0.writeWord (fbBase + 4132) (v0.fbWord 4132 ^^^ 1)

/-- Both. -/
def badBoth0 : State := { badCrc0 with cfg := refOtherMagic }

theorem badMagic0_magic : badMagic0.fbWord 0 ≠ badMagic0.config.magic := by
  rw [State.fbWord, State.readWord_congr (s := v0) (t := badMagic0) rfl rfl, ← State.fbWord, witness_validFrame.1]
  decide +kernel

theorem badMagic0_crc : badMagic0.fbWord 4132 = crc32 (badMagic0.readBytes 0x2000 4132) := by
  rw [State.fbWord, State.readWord_congr (s := v0) (t := badMagic0) rfl rfl, State.readBytes_congr (s := v0) (t := badMagic0) rfl rfl,
    ← State.fbWord, witness_validFrame.2]

theorem badCrc0_magic : badCrc0.fbWord 0 = badCrc0.config.magic := by
  rw [State.fbWord, badCrc0, State.readWord_writeWord_outside _ _ (by simp), ← State.fbWord, witness_validFrame.1]
  rfl

theorem xor_one_ne (w : Word) : w ^^^ 1 ≠ w := by
  intro h
  have := congrArg (· ^^^ w) h
  simp [BitVec.xor_comm w] at this

theorem badCrc0_crc : badCrc0.fbWord 4132 ≠ crc32 (badCrc0.readBytes 0x2000 4132) := by
  have hr : badCrc0.readBytes 0x2000 4132 = v0.readBytes 0x2000 4132 :=
    State.readBytes_writeBytes_outside v0 (by simp [fbBase])
  rw [hr, ← witness_validFrame.2, State.fbWord, badCrc0, State.readWord_writeWord]
  exact xor_one_ne _

theorem witness_InvalidFrameIsRejected :
    (badMagic0.fbWord 0 ≠ badMagic0.config.magic ∧ badMagic0.fbWord 4132 = crc32 (badMagic0.readBytes 0x2000 4132)) ∧
    (badCrc0.fbWord 0 = badCrc0.config.magic ∧ badCrc0.fbWord 4132 ≠ crc32 (badCrc0.readBytes 0x2000 4132)) ∧
    (badBoth0.fbWord 0 ≠ badBoth0.config.magic ∧ badBoth0.fbWord 4132 ≠ crc32 (badBoth0.readBytes 0x2000 4132)) := by
  refine ⟨⟨badMagic0_magic, badMagic0_crc⟩, ⟨badCrc0_magic, badCrc0_crc⟩, ?_, ?_⟩
  · rw [State.fbWord, State.readWord_congr (s := badCrc0) (t := badBoth0) rfl rfl, ← State.fbWord, badCrc0_magic]
    decide +kernel
  · rw [State.fbWord, State.readWord_congr (s := badCrc0) (t := badBoth0) rfl rfl, ← State.fbWord,
      State.readBytes_congr (s := badCrc0) (t := badBoth0) rfl rfl]
    exact badCrc0_crc

theorem v0_frameValid : v0.frameValid = true := e0.packFrame_frameValid

theorem run_decode_v0 : run .decode v0 = { v0 with crcCalc := v0.frameCrc }.unpackFrame.succeed := by
  rcases v0.validateThen_cases (fun t => t.unpackFrame.succeed) with ⟨_, he⟩ | ⟨hf, _⟩
  · exact he
  · rw [v0_frameValid] at hf; exact absurd hf (by decide)

theorem witness_RelayReproducesTheFrame : exec .decode v0 = .next (run .decode v0) ∧ (run .decode v0).status = 0x003 :=
  ⟨run_is_exec _ _, by rw [run_decode_v0]; rfl⟩

/-- The valid frame with bit `b` of byte `a` flipped. -/
def flipped (a b : Nat) : State := v0.writeBytes (fbBase + a) [v0.fb a ^^^ (1#8 <<< b)]

theorem flipped_byte (a b c : Nat) : (flipped a b).fb c = if c = a then v0.fb c ^^^ (1#8 <<< b) else v0.fb c := by
  rw [State.fb, flipped, State.readByte_writeBytes]
  by_cases h : c = a
  · subst h; simp [State.fb]
  · have hn : ¬ (fbBase + a ≤ fbBase + c ∧ fbBase + c < fbBase + a + [v0.fb a ^^^ (1#8 <<< b)].length) := by
      simp only [List.length_singleton]; omega
    rw [dif_neg hn, if_neg h]; rfl

/-- Both clauses: a changed magic word, and a flipped bit at every byte of the frame (first and last byte of the magic word, of the rest of
the span and of the CRC among them). -/
theorem witness_FlippedBitIsRejected :
    (v0.fbWord 0 = v0.config.magic ∧ v0.fbWord 4132 = crc32 (v0.readBytes 0x2000 4132)) ∧
    ((v0.writeWord fbBase 0).cfg = v0.cfg ∧ (v0.writeWord fbBase 0).fbWord 0 ≠ (v0.writeWord fbBase 0).config.magic) ∧
    ∀ a ∈ [0, 3, 4, 4131, 4132, 4135], ∀ b ∈ [0, 7], a < 4136 ∧ b < 8 ∧ (flipped a b).cfg = v0.cfg ∧
      ∀ c, c < 4136 → (flipped a b).fb c = if c = a then v0.fb c ^^^ (1#8 <<< b) else v0.fb c := by
  refine ⟨witness_validFrame, ⟨rfl, ?_⟩, fun a ha b hb => ⟨?_, ?_, rfl, fun c _ => flipped_byte a b c⟩⟩
  · rw [State.fbWord, Nat.add_zero, State.readWord_writeWord]
    decide +kernel
  · simp only [List.mem_cons, List.not_mem_nil, or_false] at ha; omega
  · simp only [List.mem_cons, List.not_mem_nil, or_false] at hb; omega

/-- A state that differs from the given one in fields the codec's operations do not read. -/
def elsewhere (s : State) : State := { s with crcCalc := 0, cmdVal := 1 }

theorem elsewhere_same (s : State) : (elsewhere s).cfg = s.cfg ∧ (elsewhere s).nsamp = s.nsamp ∧ (elsewhere s).x = s.x ∧
    (∀ k, (elsewhere s).sb k = s.sb k) ∧ ∀ a, (elsewhere s).fb a = s.fb a :=
  ⟨rfl, rfl, rfl, fun _ => State.readWord_congr rfl rfl _, fun _ => State.readByte_congr rfl rfl _⟩

theorem witness_CodecDependsOnItsOperandsAlone :
    ((elsewhere v0).cfg = v0.cfg ∧ (elsewhere v0).nsamp = v0.nsamp ∧ (elsewhere v0).x = v0.x ∧
      (∀ k, (elsewhere v0).sb k = v0.sb k) ∧ ∀ a, (elsewhere v0).fb a = v0.fb a) ∧
    v0.nsamp = 512 ∧ (run .decode v0).status = 0x003 ∧ ∀ i s, exec i s = .next (run i s) :=
  ⟨elsewhere_same v0, by rw [v0, State.packFrame_nsamp, e0], witness_RelayReproducesTheFrame.2, run_is_exec⟩

/-- The first entry, the second at its inclusive bound, and above every bound. -/
theorem witness_BandIndexIsTheFirstMatch :
    (refCfg.bandLadder = [] ++ ⟨1800000, false, 0⟩ :: refCfg.bandLadder.tail ∧ (1799999 : Word) < 1800000) ∧
    (refCfg.bandLadder = [⟨1800000, false, 0⟩] ++ ⟨2000000, true, 1⟩ :: refCfg.bandLadder.tail.tail ∧ ¬ (2000000 : Word) < 1800000 ∧
      (2000000 : Word) ≤ 2000000) ∧
    (∀ q ∈ refCfg.bandLadder, if q.inclusive then ¬ (54000001 : Word) ≤ q.bound else ¬ (54000001 : Word) < q.bound) := by decide +kernel

theorem witness_BandIndexBindingValues :
    (1799999 : Word) < 1800000 ∧ (1800000 : Word) ≤ 1800000 ∧ (1800000 : Word) ≤ 2000000 ∧ (1800000 : Word) ≤ 2000000 ∧
    (2000000 : Word) ≤ 2000000 ∧ ¬ (1800000 : Word) < 1800000 := by decide +kernel

theorem witness_BandidxWritesBandOut : { s0 with cmdFreq := 54000001 }.config.cmdPresent = true := by decide +kernel

theorem witness_BurstBytesOfTheTable : 0 ≤ s0.config.nReg ∧ 3 ≤ s0.config.nReg ∧ s0.config.nReg = 3 := by decide +kernel

theorem witness_CmdInit :
    (s0.config.cmdPresent = true ∧ { s0 with openAnswers := [true], writeAnswers := [true] }.openAnswer = true ∧
      { s0 with openAnswers := [true], writeAnswers := [true] }.busOpen.writeAnswer = true) ∧
    { s0 with openAnswers := [false] }.openAnswer = false ∧
    ({ s0 with openAnswers := [true], writeAnswers := [false] }.openAnswer = true ∧
      { s0 with openAnswers := [true], writeAnswers := [false] }.busOpen.writeAnswer = false) ∧
    0 ≤ s0.config.nReg ∧ 3 ≤ s0.config.nReg := by decide +kernel

theorem witness_CmdSendRecordsTheValue :
    { opened [true] with cmdReg := 3 }.config.cmdPresent = true ∧ { opened [true] with cmdReg := 3 }.cmdReg.toNat ≤ (opened [true]).config.nReg ∧
    { opened [true] with cmdReg := 3 }.openFlag = true ∧ { opened [true] with cmdReg := 3 }.writeAnswer = true := by decide +kernel

theorem witness_CmdSendFailuresLeaveTheTable :
    s0.config.cmdPresent = true ∧ s0.config.nReg < { s0 with cmdReg := 4 }.cmdReg.toNat ∧
    ({ s0 with cmdReg := 3 }.cmdReg.toNat ≤ s0.config.nReg ∧ { s0 with cmdReg := 3 }.openFlag = false) ∧
    ({ opened [false] with cmdReg := 3 }.cmdReg.toNat ≤ (opened [false]).config.nReg ∧ (opened [false]).openFlag = true ∧
      { opened [false] with cmdReg := 3 }.writeAnswer = false) := by decide +kernel

theorem witness_CmdIdleSendsTheTable :
    (opened [true]).config.cmdPresent = true ∧ (opened [true]).openFlag = true ∧ (opened [true]).writeAnswer = true ∧
    (opened [false]).writeAnswer = false ∧ s0.openFlag = false := by decide +kernel

theorem witness_SetbandSendsTheNewBand :
    (opened [true]).config.cmdPresent = true ∧ (bandIndex refCfg 54000001).val ≠ { opened [true] with cmdFreq := 54000001 }.curBand.toNat ∧
    (opened [true]).openFlag = true ∧ { opened [true] with cmdFreq := 54000001 }.writeAnswer = true := by decide +kernel

theorem witness_SetbandToTheSameBandIsSilent :
    s0.config.cmdPresent = true ∧ (bandIndex s0.config { s0 with cmdFreq := 1799999 }.cmdFreq).val = s0.curBand.toNat := by decide +kernel

theorem witness_SetbandFailureSuppressesTheRetry :
    (s0.config.cmdPresent = true ∧ (bandIndex refCfg 2000001).val ≠ { s0 with cmdFreq := 2000001 }.curBand.toNat ∧ s0.openFlag = false) ∧
    ((bandIndex refCfg 2000001).val ≠ { opened [false] with cmdFreq := 2000001 }.curBand.toNat ∧
      { opened [false] with cmdFreq := 2000001 }.writeAnswer = false) := by decide +kernel

theorem witness_SendThenIdleTransmitsTheValue :
    { opened [true, true] with cmdReg := 3, cmdVal := 0x12345678 }.config.cmdPresent = true ∧
    (run .cmdSend { opened [true, true] with cmdReg := 3, cmdVal := 0x12345678 }).status = 0x003 ∧ (∀ i s, exec i s = .next (run i s)) :=
  ⟨by decide +kernel, by decide +kernel, run_is_exec⟩

/-- For `AtMostOneRequestOfEachKind`, `StatusFieldsAgree` and `ErrorsOfEachOperation`: every operation answers, with and without the unit. -/
theorem witness_ErrorsOfEachOperation :
    (∀ i, exec i s0 = .next (run i s0)) ∧ (∀ i, exec i n0 = .next (run i n0)) ∧ s0.config.cmdPresent = true ∧ n0.config.cmdPresent = false :=
  ⟨fun i => run_is_exec i s0, fun i => run_is_exec i n0, by decide +kernel, by decide +kernel⟩

/-- Every operation that can fail fails somewhere, CMD_INIT in both ways; NOP never does. -/
theorem witness_FailingOperationChangesOnlyItsList :
    (run .encode s0).status ≠ 0x003 ∧ (run .cmdSend s0).status ≠ 0x003 ∧ (run .cmdIdle s0).status ≠ 0x003 ∧
    (run .cmdSetband { s0 with cmdFreq := 2000001 }).status ≠ 0x003 ∧ (run .bandidx n0).status ≠ 0x003 ∧
    (run .cmdInit { s0 with openAnswers := [false] }).status = 0x011 ∧
    (run .cmdInit { s0 with openAnswers := [true], writeAnswers := [false] }).status = 0x021 ∧
    (s0.runOp 0x4 = .next (s0.raise .illegalOp) ∧ ∀ i, decode 0x4 ≠ .ok i) :=
  ⟨by decide +kernel, by decide +kernel, by decide +kernel, by decide +kernel, by decide +kernel, by decide +kernel, by decide +kernel,
    rfl, fun i => by cases i <;> exact fun h => nomatch h⟩

theorem witness_failing_validation : (run .decode badMagic0).status ≠ 0x003 ∧ (run .check badMagic0).status ≠ 0x003 := by
  have hf : badMagic0.frameValid = false := by
    rw [Bool.eq_false_iff]; exact fun h => badMagic0_magic (badMagic0.frameValid_iff.1 h).1
  have hk : ∀ k, (badMagic0.validateThen k).status ≠ 0x003 := by
    intro k
    rcases badMagic0.validateThen_cases k with ⟨ht, _⟩ | ⟨_, he⟩
    · rw [hf] at ht; exact absurd ht (by decide)
    · rw [he]; cases badMagic0.badMagic <;> cases badMagic0.badCrc <;> decide
  exact ⟨hk (fun t => t.unpackFrame.succeed), hk (fun t => t.succeed)⟩

theorem witness_DoneIsClearedByResetAlone :
    step { run .nop s0 with port := [.reset] } = .next (served { run .nop s0 with port := [.reset] }) ∧
    { run .nop s0 with port := [.reset] }.statusDone = true ∧ (served { run .nop s0 with port := [.reset] }).statusDone = false :=
  ⟨rfl, by decide +kernel, by decide +kernel⟩

theorem witness_ConfigurationNeverChanges : step (pending .reset) = .next (served (pending .reset)) := rfl

/-- The three operations that write the shadow table, each changing the word the statement names. -/
theorem witness_ShadowIsWrittenByCommandsAlone :
    ((served { (opened [true]).fillShadow (fun _ => 0) with openAnswers := [true], port := [.hostWrite 0 0x10] }).shadow 0 ≠
      { (opened [true]).fillShadow (fun _ => 0) with openAnswers := [true], port := [.hostWrite 0 0x10] }.shadow 0) ∧
    (served { opened [true] with cmdReg := 3, cmdVal := 5, port := [.hostWrite 0 0x11] }).shadow 3 ≠ (opened [true]).shadow 3 ∧
    (served { opened [true] with cmdFreq := 54000001, port := [.hostWrite 0 0x13] }).shadow 2 ≠ (opened [true]).shadow 2 ∧
    2 ≤ s0.config.nReg ∧ 3 ≤ s0.config.nReg := by decide +kernel

theorem witness_CurBandIsWrittenBySetbandAlone :
    step { opened [true] with cmdFreq := 54000001, port := [.hostWrite 0 0x13] } =
      .next (served { opened [true] with cmdFreq := 54000001, port := [.hostWrite 0 0x13] }) ∧
    (served { opened [true] with cmdFreq := 54000001, port := [.hostWrite 0 0x13] }).curBand ≠ (opened [true]).curBand :=
  ⟨rfl, by decide +kernel⟩

/-- A machine that is open, with its shadow table written, meets the invariant, and so does one without the unit. -/
theorem witness_EveryStepKeepsTheInvariant : (opened [true]).Inv ∧ n0.Inv ∧ step (opened [true]) = .next (served (opened [true])) := by
  refine ⟨⟨by decide +kernel, ?_, by decide +kernel, by decide +kernel, by decide +kernel, ?_, ?_⟩,
    ⟨by decide +kernel, fun c h => absurd h (by simp [n0, State.initial]), by decide +kernel, by decide +kernel, by decide +kernel,
      fun h => absurd h (by decide +kernel), fun _ => by decide +kernel⟩, rfl⟩
  · intro c hc
    have h : ∀ c ∈ (opened [true]).mem, 0x10000 ≤ c.1 ∧ c.1 < 0x10000 + 4 * (3 + 1) := by decide +kernel
    exact .inr (.inr ⟨rfl, h c hc⟩)
  · intro _ a ha
    have h : ∀ k, k < 16 → (opened [true]).mem.read (0x10000 + k) ≠ none := by decide +kernel
    obtain ⟨h1, h2⟩ := ha
    have h2' : a < 0x10000 + 4 * (3 + 1) := h2
    have := h (a - 0x10000) (by omega)
    rwa [show 0x10000 + (a - 0x10000) = a by omega] at this
  · intro h; exact absurd h (by decide +kernel)

end Sys2Proof.Tests
end

section
/-! Proofs for 00_scope.md: what a well-formed configuration excludes (R8, R9, R181), and that `configure` refuses the others (R10). -/

namespace Sys2Proof

open Machine

/-! The order of the ladder (R181(a)). -/

theorem rungsOrdered_iff {a b : Rung} :
    rungsOrdered a b = true ↔
      a.bound < b.bound ∨ a.bound = b.bound ∧ a.inclusive = false ∧ b.inclusive = true := by
  simp [rungsOrdered, and_assoc]

/-- An ordered pair of rungs breaks neither half of R181(a). -/
theorem not_misordered_of_rungsOrdered {a b : Rung} (h : rungsOrdered a b = true) :
    ¬ (b.bound < a.bound ∨ b.bound = a.bound ∧ (a.inclusive = true ∨ b.inclusive = false)) := by
  rcases rungsOrdered_iff.1 h with hlt | ⟨heq, ha, hb⟩
  · rintro (hgt | ⟨heq, -⟩)
    · exact BitVec.lt_asymm hlt hgt
    · exact BitVec.ne_of_lt hlt heq.symm
  · simp [heq, ha, hb]

/-- Every two consecutive rungs of an ordered ladder are ordered. -/
theorem rungsOrdered_of_ladderOrdered {pre post : List Rung} {a b : Rung}
    (h : ladderOrdered (pre ++ a :: b :: post) = true) : rungsOrdered a b = true := by
  induction pre with
  | nil => exact ((Bool.and_eq_true _ _).mp h).1
  | cons r pre ih =>
    cases pre with
    | nil => exact ih ((Bool.and_eq_true _ _).mp h).2
    | cons r' pre => exact ih ((Bool.and_eq_true _ _).mp h).2

/-! The binding values of `band_index` in a well-formed configuration (R181). -/

theorem Machine.ladderIndex_cons_of_matches {r : Rung} {f : Word} (h : rungMatches r f = true) (rest : List Rung) (last : Fin 23) :
    ladderIndex (r :: rest) last f = r.index :=
  if_pos h

theorem Machine.ladderIndex_cons_of_not_matches {r : Rung} {f : Word} (h : ¬ rungMatches r f = true) (rest : List Rung)
    (last : Fin 23) : ladderIndex (r :: rest) last f = ladderIndex rest last f :=
  if_neg h

/-- The first rung of R181 takes the frequencies below 1 800 000. -/
theorem WfCfg.bandIndex_eq_zero (c : WfCfg) {f : Word} (hf : f < 1800000) : bandIndex c.raw f = 0 := by
  obtain ⟨rest, hl⟩ := c.ladder_eq
  have hfirst : rungMatches ⟨1800000, false, 0⟩ f = true := decide_eq_true hf
  rw [bandIndex, hl, ladderIndex_cons_of_matches hfirst]

/-- The second rung of R181 takes the frequencies from 1 800 000 to 2 000 000. -/
theorem WfCfg.bandIndex_eq_one (c : WfCfg) {f : Word} (hlo : 1800000 ≤ f) (hhi : f ≤ 2000000) :
    bandIndex c.raw f = 1 := by
  obtain ⟨rest, hl⟩ := c.ladder_eq
  have hfirst : ¬ rungMatches ⟨1800000, false, 0⟩ f = true := fun h => BitVec.not_lt.2 hlo (of_decide_eq_true h)
  have hsecond : rungMatches ⟨2000000, true, 1⟩ f = true := decide_eq_true hhi
  rw [bandIndex, hl, ladderIndex_cons_of_not_matches hfirst, ladderIndex_cons_of_matches hsecond]

theorem WfCfg.bandIndex_points (c : WfCfg) :
    bandIndex c.raw 2000001 = 2 ∧ bandIndex c.raw 21449999 = 15 ∧ bandIndex c.raw 54000001 = 22 := by
  obtain ⟨-, -, -, -, hpoints, -⟩ := c.checks
  simpa [Cfg.bindingPoints, and_assoc] using hpoints

/-! `configure` (R10). -/

/-- A configuration that no well-formed one equals is refused. -/
theorem Machine.State.configure_refused {c : Cfg} (h : ∀ w : WfCfg, w.raw ≠ c) :
    State.configure c = .refused .illFormedConfiguration :=
  dif_neg fun hwf => h ⟨c, hwf⟩ rfl

theorem Machine.State.configure_raw (c : WfCfg) : State.configure c.raw = .next (State.initial c) :=
  dif_pos c.wf

/-- Settles O10: a well-formed configuration meets each constraint by its own law, so one that breaks a constraint is not well formed. -/
theorem illFormedConfigurationIsRefused : Obligations.IllFormedConfigurationIsRefused := by
  refine ⟨fun c hbroken => State.configure_refused ?_, State.configure_raw⟩
  rintro w rfl
  rcases hbroken with h | h | h | ⟨pre, a, b, post, hl, h⟩ | ⟨f, hf, h⟩ | ⟨f, hlo, hhi, h⟩ | h | h | h
  · exact absurd w.nReg_le (Nat.not_le.2 h)
  · exact absurd w.bandReg_le (Nat.not_le.2 h)
  · exact h w.crc_eq
  · obtain ⟨-, -, hordered, -⟩ := w.checks
    rw [hl] at hordered
    exact not_misordered_of_rungsOrdered (rungsOrdered_of_ladderOrdered hordered) h
  · exact h (w.bandIndex_eq_zero hf)
  · exact h (w.bandIndex_eq_one hlo hhi)
  · exact h w.bandIndex_points.1
  · exact h w.bandIndex_points.2.1
  · exact h w.bandIndex_points.2.2

end Sys2Proof
end

section
/-! Proofs for 10_state.md: the host writes of registers and samples (R22, R24, R28, R31), the STATUS word (R27), the state after reset (R38), and
which steps change STATUS, SHADOW, CUR_BAND and the configuration (R33, R34, R37). -/

namespace Sys2Proof.Machine

/-! A host write at the head of the queue. -/

/-- The step of a host write to a location other than `OP` (R71). -/
theorem step_hostWrite {s : State} {off : Nat} {v : Word} {rest : List Input} {l : Location}
    (hp : s.port = .hostWrite off v :: rest) (hl : locate s.config off = some l) (hop : l ≠ .op) :
    step s = .next (((s.popped rest).writeLocation l v).logHost (.hostWrite off v) .writeOk) := by
  have hl' : locate (s.popped rest).config off = some l := hl
  rw [step_serve hp, State.serve, State.hostWrite, hl']
  cases l with
  | op => exact absurd rfl hop
  | _ => rfl

@[simp] theorem locate_op (c : Cfg) : locate c 0 = some .op := rfl

/-- The step of a write to `OP` of a word that selects an operation (R26, R150). -/
theorem step_hostWrite_op {s : State} {v : Word} {rest : List Input} {i : Instr}
    (hp : s.port = .hostWrite 0 v :: rest) (hd : decode v = .ok i) :
    step s = .next (((s.popped rest).after i).logHost (.hostWrite 0 v) .writeOk) := by
  simp only [step_serve hp, State.serve, State.hostWrite, locate_op, State.runOp, hd, exec_eq_after, mapNext]

theorem State.hostRead_of_locate {s : State} {off : Nat} {l : Location} (h : locate s.config off = some l) :
    s.hostRead off = .readOk (s.readLocation l) := by
  rw [State.hostRead, h]

/-! The field registers by number (R21, R22). -/

theorem exists_field_index {i : Nat} (h : i < 14) : ∃ f : Field, f.index = i := by
  have hsome : ∀ n < 14, (fieldOfIndex n).isSome = true := by decide
  obtain ⟨f, hf⟩ := Option.isSome_iff_exists.1 (hsome i h)
  exact ⟨f, fieldOfIndex_some hf⟩

theorem State.hostRead_field (s : State) (f : Field) : s.hostRead (0x10 + 4 * f.index) = .readOk (s.x.read f) :=
  State.hostRead_of_locate (locate_field s.config f)

/-- `zext_32(trunc_8(v))` is the low byte of `v` below 24 zeros. -/
theorem setWidth_setWidth_eq_append (v : Word) : (v.setWidth 8).setWidth 32 = 0#24 ++ v.extractLsb' 0 8 := by
  rw [← BitVec.setWidth_eq_extractLsb' (by decide)]
  exact BitVec.setWidth_eq_append (by decide)

/-- A field register read after a write: the one written holds all 32 bits, or bits 7:0 of registers 1 to 8; the others are as before (R22). -/
theorem FieldRegs.read_write (x : FieldRegs) (f g : Field) (v : Word) :
    (x.write f v).read g =
      if g = f then (if 1 ≤ f.index ∧ f.index ≤ 8 then 0#24 ++ v.extractLsb' 0 8 else v) else x.read g := by
  rw [← setWidth_setWidth_eq_append]
  cases f <;> cases g <;> rfl

/-! The bits of the STATUS word (R27). -/

/-- Bits 11:0 of the STATUS word are the stored ones. -/
theorem State.statusWord_getLsbD (s : State) {i : Nat} (h : i < 12) : s.statusWord.getLsbD i = s.status.getLsbD i := by
  have hopen : ∀ i < 12, (0x1000 : Word).getLsbD i = false := by decide
  rw [State.statusWord, BitVec.getLsbD_or, BitVec.getLsbD_setWidth, decide_eq_true (by omega : i < 32), Bool.true_and]
  split
  · rw [hopen i h, Bool.or_false]
  · rw [BitVec.ofNat_eq_ofNat, BitVec.getLsbD_zero, Bool.or_false]

theorem State.statusWord_extractLsb' (s : State) {lo len : Nat} (h : lo + len ≤ 12) :
    s.statusWord.extractLsb' lo len = s.status.extractLsb' lo len := by
  ext i hi
  rw [BitVec.getElem_extractLsb', BitVec.getElem_extractLsb', s.statusWord_getLsbD (by omega)]

@[simp] theorem State.statusDone_eq (s : State) : s.statusDone = s.status.getLsbD 0 := s.statusWord_getLsbD (by decide)
@[simp] theorem State.statusOk_eq (s : State) : s.statusOk = s.status.getLsbD 1 := s.statusWord_getLsbD (by decide)
@[simp] theorem State.statusErr_eq (s : State) : s.statusErr = s.status.extractLsb' 4 4 := s.statusWord_extractLsb' (by decide)
@[simp] theorem State.statusBadMagic_eq (s : State) : s.statusBadMagic = s.status.getLsbD 8 := s.statusWord_getLsbD (by decide)
@[simp] theorem State.statusBadCrc_eq (s : State) : s.statusBadCrc = s.status.getLsbD 9 := s.statusWord_getLsbD (by decide)

/-- Bit 12 of the STATUS word is the current OPEN, 0 without the command unit (R27, R39). -/
theorem State.statusOpen_eq (s : State) : s.statusOpen = (s.config.cmdPresent && s.openFlag) := by
  rw [State.statusOpen, State.statusWord]
  cases s.config.cmdPresent && s.openFlag <;> simp

/-- Bits 31:13 of the STATUS word are 0 (R27). -/
theorem State.statusWord_upper (s : State) : s.statusWord.extractLsb' 13 19 = 0 := by
  have hstored : (s.status.setWidth 32).extractLsb' 13 19 = 0 := by
    ext i hi
    rw [BitVec.getElem_extractLsb', BitVec.getLsbD_setWidth, BitVec.getLsbD_of_ge _ _ (by omega), Bool.and_false]
    simp
  rw [State.statusWord, BitVec.extractLsb'_or, hstored]
  split <;> decide

/-! The status an operation leaves (R221). -/

theorem successStatus_mem : successStatus ∈ legalStatus.tail := by decide

/-- Every error is reported by one of the words of R221, FrameValidationFailure with at least one cause. -/
theorem errorStatus_mem {e : OpError} (h : e ≠ .frameValidationFailure false false) : errorStatus e ∈ legalStatus.tail := by
  cases e with
  | frameValidationFailure badMagic badCrc =>
    cases badMagic <;> cases badCrc
    · exact absurd rfl h
    all_goals decide
  | _ => decide

/-- Every operation completes: it leaves one of the words of R221, never the reset value. -/
theorem State.after_status (s : State) (i : Instr) : (s.after i).status ∈ legalStatus.tail := by
  have hv : ∀ k : State → State, (∀ t, (k t).status = successStatus) → (s.validateThen k).status ∈ legalStatus.tail := by
    intro k hk
    rcases s.validateThen_cases k with ⟨_, he⟩ | ⟨hbad, he⟩ <;> rw [he]
    · exact hk _ ▸ successStatus_mem
    · refine errorStatus_mem fun h => ?_
      obtain ⟨hm, hc⟩ := OpError.frameValidationFailure.inj h
      simp [State.frameValid, hm, hc] at hbad
  have hu : ∀ op : State → State, (op s).status ∈ legalStatus.tail → (s.withCommandUnit op).status ∈ legalStatus.tail := by
    intro op h
    cases hp : s.config.cmdPresent
    · rw [State.withCommandUnit_absent hp]; exact errorStatus_mem nofun
    · rw [State.withCommandUnit_present hp]; exact h
  have hs : ∀ (t : State) (r : Nat) (v : Word), (t.send r v).status ∈ legalStatus.tail := by
    intro t r v
    rcases t.send_status r v with h | h
    · exact h ▸ successStatus_mem
    · exact h ▸ errorStatus_mem (e := .transportWriteFailure) nofun
  cases i with
  | nop => exact successStatus_mem
  | encode =>
    rw [State.after]
    split
    · exact successStatus_mem
    · exact errorStatus_mem nofun
  | decode => exact hv _ fun _ => rfl
  | check => exact hv _ fun _ => rfl
  | cmdInit =>
    refine hu _ ?_
    rcases s.cmdInit_cases with ⟨_, he⟩ | ⟨_, _, he⟩ | ⟨_, _, he⟩ <;> rw [he]
    · exact errorStatus_mem nofun
    · exact errorStatus_mem nofun
    · exact successStatus_mem
  | cmdSend =>
    refine hu _ ?_
    rw [State.cmdSend]
    split
    · exact errorStatus_mem nofun
    · exact hs _ _ _
  | cmdIdle =>
    refine hu _ ?_
    rcases s.cmdIdle_cases with ⟨_, he⟩ | ⟨_, _, he⟩ | ⟨_, _, he⟩ <;> rw [he]
    · exact errorStatus_mem nofun
    · exact errorStatus_mem nofun
    · exact successStatus_mem
  | cmdSetband =>
    refine hu _ ?_
    rw [State.cmdSetband]
    split
    · exact successStatus_mem
    · exact hs _ _ _
  | bandidx => exact hu _ successStatus_mem

/-- In every word of R221 DONE is 1, OK and ERR agree, a cause is given exactly with ERR = 3, and the reserved bits are 0. -/
theorem legalStatus_fields : ∀ w ∈ legalStatus.tail,
    w.getLsbD 0 = true ∧ (w.getLsbD 1 = true ↔ w.extractLsb' 4 4 = 0) ∧
    ((w.getLsbD 8 = true ∨ w.getLsbD 9 = true) ↔ w.extractLsb' 4 4 = 3) ∧
    w.extractLsb' 2 2 = 0 ∧ w.extractLsb' 10 2 = 0 :=
  List.forall_iff_forall_mem.1 (by decide)

/-! The shadow table after a write to the memory (R34). -/

/-- A word outside the range stored is as before. -/
theorem State.shadow_of_mem_write {s t : State} {a : Nat} {bs : List Byte} {r : Nat} (hm : t.mem = s.mem.write a bs)
    (hr : t.resets = s.resets) (ho : shadowBase + 4 * r + 4 ≤ a ∨ a + bs.length ≤ shadowBase + 4 * r) :
    t.shadow r = s.shadow r :=
  (State.readWord_congr (s := s.writeBytes a bs) hm hr _).trans (State.readWord_writeBytes_outside s ho)

/-- A shadow word other than `r'` is as before a store of the word `r'`. -/
theorem State.shadow_of_mem_write_entry {s t : State} {r r' : Nat} {v : Word}
    (hm : t.mem = s.mem.write (shadowBase + 4 * r') (wordBytes v)) (hr : t.resets = s.resets) (hne : r ≠ r') :
    t.shadow r = s.shadow r :=
  State.shadow_of_mem_write hm hr (by rw [wordBytes_length]; omega)

/-- The operations that change a word of the shadow table, and which word the two sends change (R34, R189(4)). -/
theorem State.after_shadow (s : State) (i : Instr) (r : Nat) :
    (s.after i).shadow r = s.shadow r ∨
    (s.config.cmdPresent = true ∧
      (i = .cmdInit ∨ (i = .cmdSend ∧ r = s.cmdReg.toNat) ∨ (i = .cmdSetband ∧ r = s.config.bandReg))) := by
  obtain ⟨-, -, -, hr, -⟩ := s.after_sameOutside i
  rcases s.after_mem i with hm | ⟨-, hm⟩ | ⟨-, hm⟩ | ⟨hi, hc, -, -⟩ | ⟨hi, hc, -, -, hm⟩ | ⟨hi, hc, -, hm⟩
  · exact .inl (State.readWord_congr hm hr _)
  · refine .inl (State.shadow_of_mem_write hm hr (.inr ?_))
    rw [frameOf_length _ _ _ s.samples_length, shadowBase, fbBase, frameBytes]
    omega
  · refine .inl (State.shadow_of_mem_write hm hr (.inr ?_))
    rw [wordsBytes_length, s.unpackSamples_length, shadowBase, sbBase]
    omega
  · exact .inr ⟨hc, .inl hi⟩
  · by_cases hreg : r = s.cmdReg.toNat
    · exact .inr ⟨hc, .inr (.inl ⟨hi, hreg⟩)⟩
    · exact .inl (State.shadow_of_mem_write_entry hm hr hreg)
  · by_cases hreg : r = s.config.bandReg
    · exact .inr ⟨hc, .inr (.inr ⟨hi, hreg⟩)⟩
    · exact .inl (State.shadow_of_mem_write_entry hm hr hreg)

/-! A host write of a location other than `OP` keeps the rest of the state. -/

section WriteLocation

variable (s : State) (l : Location) (v : Word)

@[simp] theorem State.writeLocation_cfg : (s.writeLocation l v).cfg = s.cfg := by cases l <;> rfl
@[simp] theorem State.writeLocation_status : (s.writeLocation l v).status = s.status := by cases l <;> rfl
@[simp] theorem State.writeLocation_curBand : (s.writeLocation l v).curBand = s.curBand := by cases l <;> rfl

/-- A host write at an offset of the window keeps the shadow table (R34, R64). -/
theorem State.writeLocation_shadow {off : Nat} (h : locate s.config off = some l) (r : Nat) :
    (s.writeLocation l v).shadow r = s.shadow r := by
  obtain ⟨-, hsample, hframe, -, -⟩ := locate_cases h
  cases l with
  | sample k =>
    have hk := hsample k rfl
    refine State.readWord_writeWord_outside s v (.inr ?_)
    rw [shadowBase, sbBase]
    omega
  | frame w =>
    have hw := hframe w rfl
    refine State.readWord_writeWord_outside s v (.inr ?_)
    rw [shadowBase, fbBase]
    omega
  | _ => exact State.readWord_congr rfl rfl _

end WriteLocation

/-! What a step can do to the state that only operations and the reset change. -/

/-- What a step keeps when it neither resets nor runs an operation: an illegal OP word alone reports its error (R92). -/
structure UntouchedByOperations (s t : State) : Prop where
  cfg : t.cfg = s.cfg
  status : t.status = s.status ∨ t.status = errorStatus .illegalOp
  curBand : t.curBand = s.curBand
  shadow : ∀ r, t.shadow r = s.shadow r

/-- Every step resets, runs the operation of a write to `OP`, or runs none. -/
theorem step_reset_or_operation_or_none {s t : State} (h : step s = .next t) :
    (∃ rest, s.port = .reset :: rest ∧ t = (s.popped rest).applyReset) ∨
    (∃ v rest i, s.port = .hostWrite 0 v :: rest ∧ decode v = .ok i ∧
      t = ((s.popped rest).after i).logHost (.hostWrite 0 v) .writeOk) ∨
    UntouchedByOperations s t := by
  rcases step_cases h with ⟨-, rfl⟩ | ⟨off, rest, -, rfl⟩ | hreset | ⟨off, v, rest, -, -, rfl⟩ | ⟨off, v, rest, l, -, hl, -, rfl⟩ |
    ⟨off, v, rest, i, hp, hl, hd, ht⟩ | ⟨off, v, rest, e, -, -, -, rfl⟩
  · exact .inr (.inr ⟨rfl, .inl rfl, rfl, fun _ => rfl⟩)
  · exact .inr (.inr ⟨rfl, .inl rfl, rfl, fun _ => State.readWord_congr rfl rfl _⟩)
  · exact .inl hreset
  · exact .inr (.inr ⟨rfl, .inl rfl, rfl, fun _ => State.readWord_congr rfl rfl _⟩)
  · refine .inr (.inr ⟨?_, .inl ?_, ?_, fun r => ?_⟩)
    · exact (s.popped rest).writeLocation_cfg l v
    · exact (s.popped rest).writeLocation_status l v
    · exact (s.popped rest).writeLocation_curBand l v
    · calc
        _ = ((s.popped rest).writeLocation l v).shadow r := State.readWord_congr rfl rfl _
        _ = (s.popped rest).shadow r := State.writeLocation_shadow (s.popped rest) l v hl r
        _ = s.shadow r := State.readWord_congr rfl rfl _
  · obtain ⟨hop, -⟩ := locate_cases hl
    obtain rfl := hop rfl
    exact .inr (.inl ⟨v, rest, i, hp, hd, ht⟩)
  · exact .inr (.inr ⟨rfl, .inr rfl, rfl, fun _ => State.readWord_congr rfl rfl _⟩)

/-! The state after reset (R38). -/

/-- The machine starts within its invariant, whatever the configuration. -/
theorem State.initial_inv (c : WfCfg) : (State.initial c).Inv where
  memCanonical := rfl
  memBacked := fun _ hc => absurd hc List.not_mem_nil
  statusLegal := List.mem_cons_self
  curBandLegal := Nat.zero_le 22
  bandOutLegal := Nat.zero_le 22
  shadowDefined := fun hopen => absurd hopen Bool.false_ne_true
  unitAbsent := fun _ => ⟨rfl, rfl, rfl, rfl, rfl, rfl⟩

theorem State.initial_statusWord (c : WfCfg) : (State.initial c).statusWord = 0 := by
  simp [State.statusWord, State.initial]

end Sys2Proof.Machine

namespace Sys2Proof

open Machine

/-- Settles O15: the read after the write is `FieldRegs.read_write`. -/
theorem fieldRegisterKeepsItsWidth : Obligations.FieldRegisterKeepsItsWidth := by
  intro s i v rest hi hp
  obtain ⟨f, rfl⟩ := exists_field_index hi
  refine ⟨_, step_hostWrite hp (locate_field _ f) (by simp), rfl, ?_, fun j hj hne => ?_⟩
  · rw [State.hostRead_field]
    exact congrArg Response.readOk ((FieldRegs.read_write s.x f f v).trans (if_pos rfl))
  · obtain ⟨g, rfl⟩ := exists_field_index hj
    have hgf : g ≠ f := fun h => hne (congrArg Field.index h)
    rw [State.hostRead_field, State.hostRead_field]
    exact congrArg Response.readOk ((FieldRegs.read_write s.x f g v).trans (if_neg hgf))

/-- Settles O16: the four offsets name the four registers, the last three only with the command unit. -/
theorem operandRegistersKeepAllBits : Obligations.OperandRegistersKeepAllBits := by
  intro s off v rest hp
  refine ⟨?_, fun hc => ⟨?_, ?_, ?_⟩⟩ <;> rintro rfl
  · exact step_hostWrite (l := .nsamp) hp rfl (by simp)
  · exact step_hostWrite (l := .cmdReg) hp (by simp [locate, hc, commandRegister]) (by simp)
  · exact step_hostWrite (l := .cmdVal) hp (by simp [locate, hc, commandRegister]) (by simp)
  · exact step_hostWrite (l := .cmdFreq) hp (by simp [locate, hc, commandRegister]) (by simp)

/-- Settles O17: one word is stored, which is read back, and no byte outside it. -/
theorem sampleWordIsReadBack : Obligations.SampleWordIsReadBack := by
  intro s k v rest hk hp
  have hread : (((s.popped rest).writeLocation (.sample k) v).logHost (.hostWrite (sbBase + 4 * k) v) .writeOk).sb k = v :=
    (State.readWord_congr rfl rfl _).trans (State.readWord_writeWord (s.popped rest) (sbBase + 4 * k) v)
  refine ⟨_, step_hostWrite hp (locate_sample _ hk) (by simp), rfl, ?_, hread, fun a ha => ?_⟩
  · exact (State.hostRead_of_locate (locate_sample _ hk)).trans (congrArg Response.readOk hread)
  · calc
      _ = ((s.popped rest).writeBytes (sbBase + 4 * k) (wordBytes v)).readByte a := State.readByte_congr rfl rfl a
      _ = (s.popped rest).readByte a := State.readByte_writeBytes_outside _ (by rw [wordBytes_length]; exact ha)
      _ = s.readByte a := State.readByte_congr rfl rfl a

/-- Settles O51: the fields agree in each of the words an operation can leave. -/
theorem statusFieldsAgree : Obligations.StatusFieldsAgree := by
  intro i s t h
  rw [exec_eq_after] at h
  obtain rfl := Host.Outcome.next.inj h
  obtain ⟨hdone, hok, hcause, hlow, hhigh⟩ := legalStatus_fields _ (s.after_status i)
  refine ⟨?_, ?_, ?_, State.statusOpen_eq _, ?_, ?_, State.statusWord_upper _⟩
  · rwa [State.statusDone_eq]
  · rwa [State.statusOk_eq, State.statusErr_eq]
  · rwa [State.statusBadMagic_eq, State.statusBadCrc_eq, State.statusErr_eq]
  · rwa [State.statusWord_extractLsb' _ (by decide)]
  · rwa [State.statusWord_extractLsb' _ (by decide)]

/-- Settles O52: an operation and an illegal OP word both leave DONE at 1, and every other step but a reset keeps STATUS. -/
theorem doneIsClearedByResetAlone : Obligations.DoneIsClearedByResetAlone := by
  intro s t h hset hclear
  rw [State.statusDone_eq] at hset hclear
  rcases step_reset_or_operation_or_none h with ⟨rest, hp, -⟩ | ⟨v, rest, i, -, -, rfl⟩ | hnone
  · rw [hp, List.head?_cons]
  · obtain ⟨hdone, -⟩ := legalStatus_fields _ ((s.popped rest).after_status i)
    exact absurd hdone (Bool.eq_false_iff.1 hclear)
  · rcases hnone.status with hs | hs <;> rw [hs] at hclear
    · exact absurd hset (Bool.eq_false_iff.1 hclear)
    · exact absurd hclear (by decide)

/-- Settles O53: the reset and every operation keep the configuration, and so does a step that runs none. -/
theorem configurationNeverChanges : Obligations.ConfigurationNeverChanges := by
  intro s t h
  rcases step_reset_or_operation_or_none h with ⟨rest, -, rfl⟩ | ⟨v, rest, i, -, -, rfl⟩ | hnone
  · rfl
  · obtain ⟨hcfg, -⟩ := (s.popped rest).after_sameOutside i
    exact hcfg
  · exact hnone.cfg

/-- Settles O54: among the operations it is `State.after_shadow`. -/
theorem shadowIsWrittenByCommandsAlone : Obligations.ShadowIsWrittenByCommandsAlone := by
  intro s t r h _ hne
  rcases step_reset_or_operation_or_none h with ⟨rest, hp, -⟩ | ⟨v, rest, i, hp, hd, rfl⟩ | hnone
  · exact .inl (by rw [hp, List.head?_cons])
  · rcases (s.popped rest).after_shadow i r with hsame | ⟨hc, hi⟩
    · exact absurd ((State.readWord_congr rfl rfl _).trans (hsame.trans (State.readWord_congr rfl rfl _))) hne
    · refine .inr ⟨hc, v, rest, hp, ?_⟩
      rcases hi with rfl | ⟨rfl, hr⟩ | ⟨rfl, hr⟩
      · exact .inl hd
      · exact .inr (.inl ⟨hd, hr⟩)
      · exact .inr (.inr ⟨hd, hr⟩)
  · exact absurd (hnone.shadow r) hne

/-- Settles O55: among the operations it is `State.after_bands`. -/
theorem curBandIsWrittenBySetbandAlone : Obligations.CurBandIsWrittenBySetbandAlone := by
  intro s t h hne
  rcases step_reset_or_operation_or_none h with ⟨rest, hp, -⟩ | ⟨v, rest, i, hp, hd, rfl⟩ | hnone
  · exact .inl (by rw [hp, List.head?_cons])
  · obtain ⟨hsame | ⟨rfl, hc, -⟩, -⟩ := (s.popped rest).after_bands i
    · exact absurd hsame hne
    · exact .inr ⟨hc, v, rest, hp, hd⟩
  · exact absurd hnone.curBand hne

/-- Settles O5: every operation answers a next state, and the step of the write to `OP` logs the answer in it. -/
theorem stepRunsTheDecodedOperation : Obligations.StepRunsTheDecodedOperation :=
  fun s _ rest i hp hd => ⟨(s.popped rest).after i, exec_eq_after i _, step_hostWrite_op hp hd⟩

/-- Settles O8: every register is written out in `State.initial`; the STATUS word is 0 since OPEN is. -/
theorem resetLeavesTheStatedValues : Obligations.ResetLeavesTheStatedValues :=
  ⟨rfl, State.initial_statusWord _, rfl, rfl, rfl, rfl, rfl, rfl, rfl, rfl⟩

/-- Settles O56: the reset state is the initial state of its configuration. -/
theorem resetMeetsTheInvariant : Obligations.ResetMeetsTheInvariant :=
  State.initial_inv Config.cfg

end Sys2Proof
end

section
/-! Proofs for 20_memory.md: the address map of the host window (R61 to R64), what a host read returns and leaves (R64, R76), and the byte
order of the FB window (R66). -/

namespace Sys2Proof.Machine

/-! The offsets the window maps (R61). -/

/-- The offsets that name a location (R61): whole words of the codec registers and of the buffers SB and FB, and with the command unit of
its registers and of the shadow table (R39). -/
def MappedOffset (c : Cfg) (off : Nat) : Prop :=
  off % 4 = 0 ∧
    (off < 0x48 ∨ (0x1000 ≤ off ∧ off < 0x3028) ∨
      (c.cmdPresent = true ∧
        ((0x80 ≤ off ∧ off < 0x94) ∨ (0x10000 ≤ off ∧ off < 0x20000 ∧ off < 0x10000 + 4 * c.nReg + 4))))

/-- The registers of the command unit are the words 0x20 to 0x24. -/
theorem commandRegister_some_bounds {i : Nat} {l : Location} (h : commandRegister i = some l) : 0x20 ≤ i ∧ i ≤ 0x24 := by
  unfold commandRegister at h
  split at h
  case h_6 => cases h
  all_goals decide

theorem mappedOffset_of_locate {c : Cfg} {off : Nat} {l : Location} (h : locate c off = some l) : MappedOffset c off := by
  unfold locate at h
  split at h
  · cases h
  next hwindow =>
  have halign : off % 4 = 0 := by omega
  refine ⟨halign, ?_⟩
  split at h
  · next hcodec => exact .inl hcodec
  split at h
  · split at h
    · next hc =>
      have hbounds := commandRegister_some_bounds h
      exact .inr (.inr ⟨hc, .inl (by omega)⟩)
    · cases h
  split at h
  · exact .inr (.inl (by omega))
  split at h
  · exact .inr (.inl (by omega))
  split at h
  · cases h
  split at h
  · next hc => exact .inr (.inr ⟨hc.1, .inr (by omega)⟩)
  · cases h

theorem locate_eq_none_of_not_mapped {c : Cfg} {off : Nat} (h : ¬ MappedOffset c off) : locate c off = none :=
  Option.eq_none_iff_forall_ne_some.2 fun _ hl => h (mappedOffset_of_locate hl)

/-- With the command unit its registers stand between the codec's and the buffers (R61). -/
theorem locate_command {c : Cfg} (hc : c.cmdPresent = true) {i : Nat} {l : Location} (h : commandRegister i = some l) :
    locate c (4 * i) = some l := by
  have hbounds := commandRegister_some_bounds h
  rw [locate, if_neg (by omega), if_neg (by omega), if_pos (by omega), if_pos hc, Nat.mul_div_cancel_left i (by decide), h]

/-! Serving a host read, and an access that no location answers. -/

theorem State.hostRead_unmapped {s : State} {off : Nat} (h : locate s.config off = none) : s.hostRead off = .slaveError := by
  rw [State.hostRead, h]

/-- A host read depends neither on the pending inputs nor on the history of the port (R76). -/
theorem State.hostRead_port_hostLog (s : State) (p : List Input) (g : List Exchange) (off : Nat) :
    ({ s with port := p, hostLog := g } : State).hostRead off = s.hostRead off := by
  have hread : ∀ l, ({ s with port := p, hostLog := g } : State).readLocation l = s.readLocation l := by
    intro l
    cases l with
    | sample k => exact State.readWord_congr rfl rfl _
    | frame w => exact State.readWord_congr rfl rfl _
    | shadow r => exact State.readWord_congr rfl rfl _
    | _ => rfl
  simp only [State.hostRead, hread]

/-- The step of a host read (R71, R76). -/
theorem step_hostRead {s : State} {off : Nat} {rest : List Input} (hp : s.port = .hostRead off :: rest) :
    step s = .next ((s.popped rest).logHost (.hostRead off) (s.hostRead off)) := by
  have hsame : (s.popped rest).hostRead off = s.hostRead off := s.hostRead_port_hostLog rest s.hostLog off
  rw [step_serve hp, State.serve, hsame]

/-- The step of a host write at an offset that names no location (R62, R63). -/
theorem step_hostWrite_unmapped {s : State} {off : Nat} {v : Word} {rest : List Input}
    (hp : s.port = .hostWrite off v :: rest) (hl : locate s.config off = none) :
    step s = .next ((s.popped rest).logHost (.hostWrite off v) .slaveError) := by
  have hl' : locate (s.popped rest).config off = none := hl
  rw [step_serve hp, State.serve, State.hostWrite, hl']

/-! The registers as a host reads them. -/

/-- `zext_32(b)` is `b` below 24 zeros. -/
theorem setWidth_byte_eq_append (b : Byte) : b.setWidth 32 = 0#24 ++ b := BitVec.setWidth_eq_append (by decide)

/-- An 8-bit register is read zero-extended (R22, R64). -/
theorem State.hostRead_byteField (s : State) {f : Field} {b : Byte} (h : s.x.read f = b.setWidth 32) :
    s.hostRead (0x10 + 4 * f.index) = .readOk (0#24 ++ b) := by
  rw [s.hostRead_field f, h, setWidth_byte_eq_append]

/-- What a host reads at the word index of a register of the command unit (R61). -/
theorem State.hostRead_command {s : State} (hc : s.config.cmdPresent = true) {i : Nat} {l : Location}
    (h : commandRegister i = some l) : s.hostRead (4 * i) = .readOk (s.readLocation l) :=
  State.hostRead_of_locate (locate_command hc h)

theorem State.hostRead_bandOut {s : State} (hc : s.config.cmdPresent = true) : s.hostRead 0x8C = .readOk (0#24 ++ s.bandOut) :=
  (State.hostRead_command hc (i := 0x23) rfl).trans (congrArg Response.readOk (setWidth_byte_eq_append _))

theorem State.hostRead_curBand {s : State} (hc : s.config.cmdPresent = true) : s.hostRead 0x90 = .readOk (0#24 ++ s.curBand) :=
  (State.hostRead_command hc (i := 0x24) rfl).trans (congrArg Response.readOk (setWidth_byte_eq_append _))

/-! The four bytes of a word (R66, R67). -/

/-- A word is its four bytes, the last of them uppermost. -/
theorem append_bytes_of_word (w : Word) :
    w.extractLsb' 24 8 ++ w.extractLsb' 16 8 ++ w.extractLsb' 8 8 ++ w.extractLsb' 0 8 = w := by
  rw [BitVec.extractLsb'_append_extractLsb'_eq_extractLsb' (start₂ := 24) (start₁ := 16) rfl,
    BitVec.extractLsb'_append_extractLsb'_eq_extractLsb' (start₂ := 16) (start₁ := 8) rfl,
    BitVec.extractLsb'_append_extractLsb'_eq_extractLsb' (start₂ := 8) (start₁ := 0) rfl]
  exact BitVec.extractLsb'_eq_self

/-- The byte `j` behind an address is byte `j` of the word there. -/
theorem State.readByte_eq_extractLsb' (s : State) (a : Nat) {j : Nat} (h : j ≤ 3) :
    s.readByte (a + j) = (s.readWord a).extractLsb' (8 * j) 8 := by
  have hbytes : [s.readByte a, s.readByte (a + 1), s.readByte (a + 2), s.readByte (a + 3)] = wordBytes (s.readWord a) :=
    (s.wordBytes_readWord a).symm
  rw [wordBytes_eq] at hbytes
  simp only [List.cons.injEq, and_true] at hbytes
  obtain ⟨h0, h1, h2, h3⟩ := hbytes
  interval_cases j
  · exact h0
  · exact h1
  · exact h2
  · exact h3

theorem State.readWord_eq_append (s : State) (a : Nat) :
    s.readWord a = s.readByte (a + 3) ++ s.readByte (a + 2) ++ s.readByte (a + 1) ++ s.readByte a := by
  rw [s.readByte_eq_extractLsb' a (j := 3) (by decide), s.readByte_eq_extractLsb' a (j := 2) (by decide),
    s.readByte_eq_extractLsb' a (j := 1) (by decide), ← Nat.add_zero a, s.readByte_eq_extractLsb' a (j := 0) (by decide)]
  exact (append_bytes_of_word _).symm

theorem State.readByte_writeWord_outside (s : State) {a c : Nat} (v : Word) (h : c < a ∨ a + 4 ≤ c) :
    (s.writeWord a v).readByte c = s.readByte c :=
  State.readByte_writeBytes_outside s (by rwa [wordBytes_length])

end Sys2Proof.Machine

namespace Sys2Proof

open Machine

/-- Settles O11: none of the offsets is mapped, and an access without a location is answered `SlaveError`. -/
theorem unmappedAccessIsSlaveError : Obligations.UnmappedAccessIsSlaveError := by
  intro s off v rest hoff
  have hunmapped : ¬ MappedOffset s.config off := by
    rintro ⟨halign, hcodec | hbuffer | ⟨hc, hcommand⟩⟩
    · omega
    · omega
    · rw [hc] at hoff
      simp only [Bool.true_eq_false, false_and, or_false] at hoff
      omega
  have hl := locate_eq_none_of_not_mapped hunmapped
  refine ⟨fun hp => ?_, fun hp => step_hostWrite_unmapped hp hl⟩
  rw [step_hostRead hp, State.hostRead_unmapped hl]
  rfl

/-- Settles O12: each offset names its location (R61). -/
theorem hostReadAtEveryMappedOffset : Obligations.HostReadAtEveryMappedOffset := by
  intro s
  refine ⟨rfl, rfl, rfl, rfl, s.hostRead_field .flags,
    s.hostRead_byteField (f := .rsv1) rfl, s.hostRead_byteField (f := .txpwr) rfl, s.hostRead_byteField (f := .vswr) rfl,
    s.hostRead_byteField (f := .alc) rfl, s.hostRead_byteField (f := .vext) rfl, s.hostRead_byteField (f := .vbat) rfl,
    s.hostRead_byteField (f := .batcap) rfl, s.hostRead_byteField (f := .rsv2) rfl,
    s.hostRead_field .atu, s.hostRead_field .rsv3_0, s.hostRead_field .rsv3_1, s.hostRead_field .rsv3_2, s.hostRead_field .rsv3_3,
    fun hc => ⟨?_, ?_, ?_, State.hostRead_bandOut hc, State.hostRead_curBand hc, fun r hr => ?_⟩, fun k hk => ?_, fun w hw => ?_⟩
  · exact State.hostRead_command hc (i := 0x20) rfl
  · exact State.hostRead_command hc (i := 0x21) rfl
  · exact State.hostRead_command hc (i := 0x22) rfl
  · exact State.hostRead_of_locate (locate_shadow hc s.cfg.nReg_le hr)
  · exact State.hostRead_of_locate (locate_sample _ hk)
  · exact State.hostRead_of_locate (locate_frame _ hw)

/-- Settles O13: the step moves the port's queue and history alone, and no read depends on them. -/
theorem hostReadChangesNothing : Obligations.HostReadChangesNothing :=
  fun s _ _ hp => ⟨_, step_hostRead hp, rfl, s.hostRead_port_hostLog _ _⟩

/-- Settles O14: `writeLocation` stores nothing at the five read-only locations; what is read is among the offsets of O12. -/
theorem readOnlyLocationsIgnoreWrites : Obligations.ReadOnlyLocationsIgnoreWrites := by
  refine ⟨?_, fun s rest hp => step_hostRead hp, fun s => ?_⟩
  · rintro s off v rest hp (rfl | rfl | ⟨hc, rfl | rfl | ⟨r, hr, rfl⟩⟩)
    · exact step_hostWrite (l := .status) hp rfl (by simp)
    · exact step_hostWrite (l := .crcCalc) hp rfl (by simp)
    · exact step_hostWrite (l := .bandOut) hp (locate_command hc (i := 0x23) rfl) (by simp)
    · exact step_hostWrite (l := .curBand) hp (locate_command hc (i := 0x24) rfl) (by simp)
    · exact step_hostWrite (l := .shadow r) hp (locate_shadow hc s.cfg.nReg_le hr) (by simp)
  · obtain ⟨-, -, -, -, -, hrsv1, htxpwr, hvswr, halc, hvext, hvbat, hbatcap, hrsv2, -⟩ := hostReadAtEveryMappedOffset s
    exact ⟨hrsv1, htxpwr, hvswr, halc, hvext, hvbat, hbatcap, hrsv2,
      fun hc => ⟨State.hostRead_bandOut hc, State.hostRead_curBand hc⟩⟩

/-- Settles O18: the bytes of a word of memory are its slices (R67), whether it is read or has just been stored. -/
theorem frameWindowIsLittleEndian : Obligations.FrameWindowIsLittleEndian := by
  refine ⟨fun s w hw => ?_, fun s w v rest hw hp => ?_⟩
  · exact (State.hostRead_of_locate (locate_frame _ (by omega))).trans
      (congrArg Response.readOk (s.readWord_eq_append (fbBase + 4 * w)))
  · refine ⟨_, step_hostWrite hp (locate_frame _ (by omega)) (by simp), rfl, fun j hj => ?_, fun a ha => ?_⟩
    · rw [State.fb, ← Nat.add_assoc]
      calc
        _ = ((s.popped rest).writeWord (fbBase + 4 * w) v).readByte (fbBase + 4 * w + j) := State.readByte_congr rfl rfl _
        _ = v.extractLsb' (8 * j) 8 := by rw [State.readByte_eq_extractLsb' _ _ hj, State.readWord_writeWord]
    · calc
        _ = ((s.popped rest).writeWord (fbBase + 4 * w) v).readByte a := State.readByte_congr rfl rfl a
        _ = (s.popped rest).readByte a := State.readByte_writeWord_outside _ v ha
        _ = s.readByte a := State.readByte_congr rfl rfl a

end Sys2Proof
end

section
/-! Proofs for 30_encoding.md: the decoder of OP words against the opcode map and the encoder (R90, R91), the step of an illegal OP word (R92,
R39), and the bytes of the Wire Command (R100, R101) and of the Wire Full-State Burst (R103). -/

namespace Sys2Proof

/-! The decoder and the encoder (R90, R91). -/

theorem decode_eq_ok_iff {w : Word} {i : Instr} : decode w = .ok i ↔ zeroField w = 0 ∧ opcodeMap (opcodeField w) = some i := by
  unfold decode
  split
  next hz => exact iff_of_false nofun fun h => hz h.1
  next hz =>
    have hzero : zeroField w = 0 := not_not.1 hz
    cases opcodeMap (opcodeField w) <;> simp [hzero]

theorem zeroField_encode (i : Instr) : zeroField (encode i) = 0 := by cases i <;> rfl

/-- The opcode map has one row per operation, whose opcode is that of the encoder's word (R91). -/
theorem opcodeMap_eq_some_iff {op : Byte} {i : Instr} : opcodeMap op = some i ↔ op = opcodeField (encode i) := by
  constructor
  · intro h
    apply BitVec.eq_of_toNat_eq
    unfold opcodeMap at h
    split at h
    case h_10 => cases h
    all_goals
      next hop =>
        rw [hop, ← Option.some.inj h]
        rfl
  · rintro rfl
    cases i <;> rfl

/-- An OP word is its upper 24 bits and its opcode (R90). -/
theorem zeroField_append_opcodeField (w : Word) : zeroField w ++ opcodeField w = w :=
  BitVec.extractLsb'_append_extractLsb' (w := 24) (len := 8)

/-- An OP word selects an operation exactly when it is the encoder's word (R91). -/
theorem decode_eq_ok_iff_eq_encode {w : Word} {i : Instr} : decode w = .ok i ↔ w = encode i := by
  rw [decode_eq_ok_iff, opcodeMap_eq_some_iff]
  constructor
  · rintro ⟨hzero, hop⟩
    rw [← zeroField_append_opcodeField w, ← zeroField_append_opcodeField (encode i), hzero, hop, zeroField_encode]
  · rintro rfl
    exact ⟨zeroField_encode i, rfl⟩

theorem decode_encode (i : Instr) : decode (encode i) = .ok i := decode_eq_ok_iff_eq_encode.2 rfl

/-- The nine rows of R91, written out. -/
theorem opcodeMap_eq_some_iff_mem {op : Byte} {i : Instr} :
    opcodeMap op = some i ↔ (op, i) ∈ [((0x00 : Byte), Instr.nop), (0x01, .encode), (0x02, .decode), (0x03, .check), (0x10, .cmdInit),
      (0x11, .cmdSend), (0x12, .cmdIdle), (0x13, .cmdSetband), (0x14, .bandidx)] := by
  rw [opcodeMap_eq_some_iff]
  cases i <;> simp [opcodeField, encode]

end Sys2Proof

namespace Sys2Proof.Machine

/-! Illegal OP words (R92, R39). -/

/-- The step of a write to `OP` of a word that selects no operation (R92). -/
theorem step_hostWrite_op_illegal {s : State} {v : Word} {rest : List Input} {e : DecodeError}
    (hp : s.port = .hostWrite 0 v :: rest) (hd : decode v = .error e) :
    step s = .next (((s.popped rest).raise .illegalOp).logHost (.hostWrite 0 v) .writeOk) := by
  simp only [step_serve hp, State.serve, State.hostWrite, locate_op, State.runOp, hd, mapNext]

/-- Without the command unit each of its operations is illegal (R39). -/
theorem State.after_command_absent {s : State} (hc : s.config.cmdPresent = false) {i : Instr} (hi : i.isCommand = true) :
    s.after i = s.raise .illegalOp := by
  cases i with
  | nop | encode | decode | check => cases hi
  | cmdInit | cmdSend | cmdIdle | cmdSetband | bandidx => exact State.withCommandUnit_absent hc _

/-! The bytes of the wire formats (R67, R100 to R103). -/

/-- The two bytes of a 16-bit field, by slices (R67). -/
theorem leBytes_two_toNat (a : BitVec 16) : leBytes 2 a.toNat = [a.extractLsb' 0 8, a.extractLsb' 8 8] := by
  simp only [leBytes, BitVec.extractLsb', Nat.shiftRight_eq_div_pow, Nat.pow_zero, Nat.div_one, Nat.reducePow]

/-- The low byte of `swap16(a)` is `a[15:8]` (R11). -/
theorem swap16_low (a : BitVec 16) : (swap16 a).extractLsb' 0 8 = a.extractLsb' 8 8 :=
  (BitVec.extractLsb'_append_of_lt (i := 0) (k := 1) (by decide)).trans BitVec.extractLsb'_eq_self

/-- The high byte of `swap16(a)` is `a[7:0]` (R11). -/
theorem swap16_high (a : BitVec 16) : (swap16 a).extractLsb' 8 8 = a.extractLsb' 0 8 :=
  BitVec.extractLsb'_append_of_eq (i := 1) (k := 1) rfl

/-- Byte `j` of a word (R67). -/
theorem wordBytes_getElem? (w : Word) {j : Nat} (h : j ≤ 3) : (wordBytes w)[j]? = some (w.extractLsb' (8 * j) 8) := by
  rw [wordBytes_eq]
  interval_cases j <;> rfl

/-- Byte `j` of word `k` stands `4*k + j` bytes into the bytes of a list of words. -/
theorem wordsBytes_getElem? (ws : List Word) {k j : Nat} (hk : k < ws.length) (hj : j ≤ 3) :
    (wordsBytes ws)[4 * k + j]? = some (ws[k].extractLsb' (8 * j) 8) := by
  rw [← wordBytes_getElem? _ hj, ← wordsBytes_slice ws k hk, List.getElem?_take_of_lt (by omega), List.getElem?_drop]

theorem State.shadowTable_getElem (s : State) {r : Nat} (h : r < s.shadowTable.length) : s.shadowTable[r] = s.shadow r := by
  simp only [State.shadowTable, List.getElem_map, List.getElem_range]

/-- The bytes of the table stand behind the two header bytes (R103). -/
theorem burstBytes_getElem? (c : Cfg) (ws : List Word) (n : Nat) : (burstBytes c ws)[2 + n]? = (wordsBytes ws)[n]? := by
  rw [burstBytes, List.getElem?_append_right (Nat.le_add_right 2 n)]
  exact congrArg _ (Nat.add_sub_cancel_left 2 n)

end Sys2Proof.Machine

namespace Sys2Proof

open Machine

/-- Settles O2: the two fields of the word and the row of the opcode map; the upper bits and the opcode make up the word. -/
theorem decodeSelectsExactlyTheTable : Obligations.DecodeSelectsExactlyTheTable := fun _ _ =>
  ⟨decode_eq_ok_iff.trans (and_congr_right fun _ => opcodeMap_eq_some_iff_mem), decode_eq_ok_iff_eq_encode⟩

/-- Settles O3: the decoder refuses a word outside the table, and the operation itself refuses when its unit is absent. -/
theorem illegalOpWordChangesOnlyStatus : Obligations.IllegalOpWordChangesOnlyStatus := by
  rintro s v rest hp (houtside | ⟨hc, hv⟩)
  · cases hd : decode v with
    | error e => exact step_hostWrite_op_illegal hp hd
    | ok i =>
      obtain ⟨hzero, hrow⟩ := (decodeSelectsExactlyTheTable v i).1.1 hd
      have hop := List.mem_map_of_mem (f := Prod.fst) hrow
      exact absurd houtside (not_or.2 ⟨not_not.2 hzero, not_not.2 hop⟩)
  · obtain ⟨i, hi, hd⟩ : ∃ i : Instr, i.isCommand = true ∧ decode v = .ok i := by
      simp only [List.mem_cons, List.not_mem_nil, or_false] at hv
      obtain rfl | rfl | rfl | rfl | rfl := hv
      · exact ⟨.cmdInit, rfl, rfl⟩
      · exact ⟨.cmdSend, rfl, rfl⟩
      · exact ⟨.cmdIdle, rfl, rfl⟩
      · exact ⟨.cmdSetband, rfl, rfl⟩
      · exact ⟨.bandidx, rfl, rfl⟩
    rw [step_hostWrite_op hp hd, State.after_command_absent (s := s.popped rest) hc hi]
    rfl

/-- Settles O36: the swapped address field, then the four bytes of the value. -/
theorem wireCommandBytes : Obligations.WireCommandBytes := by
  intro r v
  rw [wireCmd, leBytes_two_toNat, swap16_low, swap16_high, wordBytes_eq]
  rfl

/-- Settles O37: behind the two header bytes stand the bytes of the table's words. -/
theorem burstBytesOfTheTable : Obligations.BurstBytesOfTheTable := by
  intro s
  refine ⟨by rw [burstBytes_length, State.shadowTable_length], rfl, rfl, fun r j hr hj => ?_⟩
  have hentry : r < s.shadowTable.length := by rw [State.shadowTable_length]; omega
  rw [Nat.add_assoc, burstBytes_getElem?, wordsBytes_getElem? _ hentry hj, State.shadowTable_getElem]

/-- Settles O1: each word is the encoder's word of its operation. -/
theorem opWordsOfTheTableDecode : Obligations.OpWordsOfTheTableDecode :=
  ⟨decode_encode .nop, decode_encode .encode, decode_encode .decode, decode_encode .check, decode_encode .cmdInit,
    decode_encode .cmdSend, decode_encode .cmdIdle, decode_encode .cmdSetband, decode_encode .bandidx⟩

/-- Settles O4: each of the five tests for its unit first. -/
theorem commandUnitAbsentIsIllegal : Obligations.CommandUnitAbsentIsIllegal := by
  intro s i hc hi
  have hcommand : i.isCommand = true := by
    revert i
    decide
  rw [exec_eq_after, State.after_command_absent hc hcommand]
  rfl

end Sys2Proof
end

section
/-! Proofs for 40_crc.md: the two forms of the CRC (R130, R131), the bursts it detects (R134) and its residue (R135). -/

namespace Sys2Proof.Machine

/-! The general form is the least-significant-bit-first form with every register reflected (R131). -/

theorem reverse_xor {n : Nat} (a b : BitVec n) : (a ^^^ b).reverse = a.reverse ^^^ b.reverse := by
  ext i hi
  simp [BitVec.getElem_reverse]

theorem reverse_shiftLeft {w : Nat} (a : BitVec w) (n : Nat) : (a <<< n).reverse = a.reverse >>> n := by
  apply BitVec.eq_of_getLsbD_eq
  intro i _
  rw [BitVec.getLsbD_reverse, BitVec.getLsbD_ushiftRight, BitVec.getLsbD_reverse, BitVec.getMsbD_shiftLeft, Nat.add_comm]

theorem reverse_crcPoly : CrcParams.decided.poly.reverse = crcPolyReflected := by decide +kernel

theorem reverse_crcInit : CrcParams.decided.init.reverse = 0xFFFFFFFF := by decide +kernel

/-- One bit of R130 is one bit of R131 on the reflected register. -/
theorem crcBitGeneral_semiconj :
    Function.Semiconj BitVec.reverse (crcBitGeneral CrcParams.decided) crcBit := by
  intro r
  have hbit : r.reverse.getLsbD 0 = r.getLsbD 31 := by rw [BitVec.getLsbD_reverse]; rfl
  rw [crcBit, crcBitGeneral, hbit]
  split
  · rw [reverse_xor, reverse_shiftLeft, reverse_crcPoly]
  · rw [reverse_shiftLeft]

/-- The reflected byte in the top byte of a register is the byte in the low byte of the reflected register. -/
theorem reverse_reverse_byte_shiftLeft (b : Byte) : (b.reverse.setWidth 32 <<< 24 : Word).reverse = b.setWidth 32 := by
  rw [reverse_shiftLeft]
  apply BitVec.eq_of_getLsbD_eq
  intro i hi
  rw [BitVec.getLsbD_ushiftRight, BitVec.getLsbD_reverse, BitVec.getMsbD_setWidth, BitVec.getMsbD_reverse, BitVec.getLsbD_setWidth,
    show 24 + i + 8 - 32 = i by omega, decide_eq_true hi, decide_eq_true (Nat.le_add_right 24 i)]

theorem crcByte_eq_iterate (c : Word) (b : Byte) : crcByte c b = crcBit^[8] (c ^^^ b.setWidth 32) := rfl

/-- One byte of R130 is one byte of R131 on the reflected register. -/
theorem reverse_crcByteGeneral (r : Word) (b : Byte) :
    (crcByteGeneral CrcParams.decided r b).reverse = crcByte r.reverse b := by
  rw [crcByte_eq_iterate, ← reverse_reverse_byte_shiftLeft b, ← reverse_xor]
  exact crcBitGeneral_semiconj.iterate_right 8 _

theorem crc32General_decided (m : List Byte) : crc32General CrcParams.decided m = crc32 m := by
  have hfold := List.foldl_hom BitVec.reverse (l := m) (init := CrcParams.decided.init)
    fun r b => (reverse_crcByteGeneral r b).symm
  rw [reverse_crcInit] at hfold
  rw [crc32, crcRegister, hfold]
  rfl

/-! The register, bit by bit. -/

/-- One bit of a message consumed by the register. -/
def bitStep (c : Word) (x : Bool) : Word := crcBit (c ^^^ (BitVec.ofBool x).setWidth 32)

/-- The bits of a message in the order the register consumes them: bytes in index order, bit 0 of a byte first (R131). -/
def messageBits (m : List Byte) : List Bool := m.flatMap fun b => (List.range 8).map b.getLsbD

/-- The word whose bits, from bit 0 on, are the bits of the list. -/
def wordOfBits (xs : List Bool) : Word := (BitVec.ofBoolListLE xs).setWidth 32

theorem wordOfBits_getLsbD (xs : List Bool) {i : Nat} (h : i < 32) : (wordOfBits xs).getLsbD i = xs[i]?.getD false := by
  simp [wordOfBits, h]

theorem wordOfBits_cons (x : Bool) (xs : List Bool) :
    wordOfBits (x :: xs) = (BitVec.ofBool x).setWidth 32 ^^^ wordOfBits xs <<< 1 := by
  apply BitVec.eq_of_getLsbD_eq
  intro i hi
  rw [wordOfBits_getLsbD _ hi]
  cases i with
  | zero => simp
  | succ i =>
    rw [BitVec.getLsbD_xor, BitVec.getLsbD_shiftLeft, Nat.add_sub_cancel, wordOfBits_getLsbD xs (Nat.lt_of_succ_lt hi)]
    simp [hi]

theorem crcBit_shiftLeft_one {w : Word} (h : w.getLsbD 31 = false) : crcBit (w <<< 1) = w := by
  have h0 : (w <<< 1).getLsbD 0 = false := by simp
  rw [crcBit, h0, if_neg Bool.false_ne_true]
  apply BitVec.eq_of_getLsbD_eq
  intro i hi
  rw [BitVec.getLsbD_ushiftRight, BitVec.getLsbD_shiftLeft, Nat.add_sub_cancel_left]
  rcases Nat.lt_or_eq_of_le (Nat.le_of_lt_succ hi) with hlt | rfl
  · have hbound : 1 + i < 32 := by omega
    simp [hbound]
  · simpa using h

/-- Up to 32 bits consumed one by one are the word they make up, XORed in at once before the bit steps. -/
theorem foldl_bitStep (xs : List Bool) (h : xs.length ≤ 32) (c : Word) :
    xs.foldl bitStep c = crcBit^[xs.length] (c ^^^ wordOfBits xs) := by
  induction xs generalizing c with
  | nil => exact (BitVec.xor_zero).symm
  | cons x xs ih =>
    have hshift : crcBit (wordOfBits xs <<< 1) = wordOfBits xs :=
      crcBit_shiftLeft_one (by
        rw [wordOfBits_getLsbD xs (by decide), List.getElem?_eq_none (Nat.le_of_succ_le_succ h), Option.getD_none])
    rw [List.foldl_cons, ih (Nat.le_of_succ_le h), List.length_cons, Function.iterate_succ_apply, wordOfBits_cons, ← BitVec.xor_assoc,
      crcBit_xor, hshift]
    rfl

theorem messageBits_cons (b : Byte) (m : List Byte) : messageBits (b :: m) = messageBits [b] ++ messageBits m := by
  simp [messageBits]

@[simp] theorem messageBits_singleton_length (b : Byte) : (messageBits [b]).length = 8 := rfl

theorem messageBits_length (m : List Byte) : (messageBits m).length = 8 * m.length := by
  induction m with
  | nil => rfl
  | cons b m ih =>
    rw [messageBits_cons, List.length_append, ih, messageBits_singleton_length, List.length_cons]
    omega

/-- Bit `i` of a message is bit `i % 8` of byte `i / 8`. -/
theorem messageBits_getElem? (m : List Byte) (i : Nat) : (messageBits m)[i]? = m[i / 8]?.map fun b => b.getLsbD (i % 8) := by
  induction m generalizing i with
  | nil => rfl
  | cons b m ih =>
    rw [messageBits_cons]
    rcases Nat.lt_or_ge i 8 with hi | hi
    · rw [List.getElem?_append_left hi, Nat.div_eq_of_lt hi, Nat.mod_eq_of_lt hi]
      simp [messageBits, hi]
    · rw [List.getElem?_append_right hi, messageBits_singleton_length, ih, ← Nat.mod_eq_sub_mod hi, Nat.div_eq_sub_div (by decide) hi,
        List.getElem?_cons_succ]

theorem messageBits_injective {m m' : List Byte} (hlen : m.length = m'.length) (h : messageBits m = messageBits m') : m = m' := by
  refine List.ext_getElem hlen fun j hj hj' => BitVec.eq_of_getLsbD_eq fun k hk => ?_
  have hbit := congrArg (·[8 * j + k]?) h
  simpa [messageBits_getElem?, Nat.mul_add_div, Nat.mul_add_mod, Nat.div_eq_of_lt hk, Nat.mod_eq_of_lt hk, hj, hj'] using hbit

/-- The bits of a word's four bytes make up the word. -/
theorem wordOfBits_wordBytes (w : Word) : wordOfBits (messageBits (wordBytes w)) = w := by
  apply BitVec.eq_of_getLsbD_eq
  intro i hi
  have hbyte : i / 8 ≤ 3 := by omega
  rw [wordOfBits_getLsbD _ hi, messageBits_getElem?, wordBytes_getElem? w hbyte, Option.map_some, Option.getD_some,
    BitVec.getLsbD_extractLsb', decide_eq_true (Nat.mod_lt i (by decide)), Bool.true_and, Nat.div_add_mod]

theorem wordOfBits_byte (b : Byte) : wordOfBits (messageBits [b]) = b.setWidth 32 := by
  apply BitVec.eq_of_getLsbD_eq
  intro i hi
  rw [wordOfBits_getLsbD _ hi, messageBits_getElem?, BitVec.getLsbD_setWidth, decide_eq_true hi, Bool.true_and]
  rcases Nat.lt_or_ge i 8 with h | h
  · simp [Nat.div_eq_of_lt h, Nat.mod_eq_of_lt h]
  · rw [List.getElem?_eq_none (Nat.div_pos h (by decide)), BitVec.getLsbD_of_ge b i h]
    rfl

/-- The register consumes a message bit by bit. -/
theorem foldl_crcByte_eq_foldl_bitStep (m : List Byte) (c : Word) : m.foldl crcByte c = (messageBits m).foldl bitStep c := by
  induction m generalizing c with
  | nil => rfl
  | cons b m ih =>
    have hbyte : (messageBits [b]).foldl bitStep c = crcByte c b := by
      rw [foldl_bitStep _ (by rw [messageBits_singleton_length]; decide), wordOfBits_byte]
      rfl
    rw [List.foldl_cons, ih, messageBits_cons, List.foldl_append, hbyte]

/-! No two bit strings that differ inside 32 consecutive bits lead to one register (R134). -/

theorem bitStep_injective {c d : Word} {x : Bool} (h : bitStep c x = bitStep d x) : c = d :=
  (BitVec.xor_left_inj _).1 (crcBit_injective h)

/-- Consuming the same bits, the register keeps its history. -/
theorem foldl_bitStep_register_injective (xs : List Bool) {c d : Word} (h : xs.foldl bitStep c = xs.foldl bitStep d) : c = d := by
  induction xs generalizing c d with
  | nil => exact h
  | cons x xs ih => exact bitStep_injective (ih h)

theorem crcBit_iterate_injective (n : Nat) : Function.Injective crcBit^[n] :=
  Function.Injective.iterate (fun _ _ => crcBit_injective) n

theorem wordOfBits_injective {xs ys : List Bool} (hlen : xs.length = ys.length) (hxs : xs.length ≤ 32)
    (h : wordOfBits xs = wordOfBits ys) : xs = ys := by
  refine List.ext_getElem hlen fun i hi hi' => ?_
  have hbit := congrArg (·.getLsbD i) h
  simpa [wordOfBits_getLsbD _ (Nat.lt_of_lt_of_le hi hxs), hi, hi'] using hbit

/-- From one register on, up to 32 bits can be told from the register after them. -/
theorem foldl_bitStep_bits_injective {xs ys : List Bool} (hlen : xs.length = ys.length) (hxs : xs.length ≤ 32) {c : Word}
    (h : xs.foldl bitStep c = ys.foldl bitStep c) : xs = ys := by
  rw [foldl_bitStep xs hxs, foldl_bitStep ys (hlen ▸ hxs), hlen] at h
  exact wordOfBits_injective hlen hxs ((BitVec.xor_right_inj c).1 (crcBit_iterate_injective _ h))

/-- A list as what stands before, inside and behind a window of 32 entries. -/
theorem eq_before_window_behind (xs : List Bool) (p : Nat) :
    xs = xs.take p ++ ((xs.drop p).take 32 ++ xs.drop (p + 32)) := by
  rw [← List.drop_drop, List.take_append_drop, List.take_append_drop]

/-- Bit strings of one length that agree outside a window of 32 bits and lead to one register are equal. -/
theorem eq_of_foldl_bitStep_eq {xs ys : List Bool} {p : Nat} {c : Word} (hlen : xs.length = ys.length)
    (hout : ∀ i, xs[i]? ≠ ys[i]? → p ≤ i ∧ i < p + 32) (h : xs.foldl bitStep c = ys.foldl bitStep c) : xs = ys := by
  have hbefore : xs.take p = ys.take p := by
    refine List.ext_getElem? fun i => ?_
    rw [List.getElem?_take, List.getElem?_take]
    split
    · next hi => exact not_not.1 fun hne => Nat.not_le.2 hi (hout i hne).1
    · rfl
  have hbehind : xs.drop (p + 32) = ys.drop (p + 32) := by
    refine List.ext_getElem? fun i => ?_
    rw [List.getElem?_drop, List.getElem?_drop]
    exact not_not.1 fun hne => Nat.not_lt.2 (Nat.le_add_right (p + 32) i) (hout _ hne).2
  rw [eq_before_window_behind xs p, eq_before_window_behind ys p, hbefore, hbehind] at h ⊢
  simp only [List.foldl_append] at h
  rw [foldl_bitStep_bits_injective (by simp [hlen]) (List.length_take_le 32 _) (foldl_bitStep_register_injective _ h)]

/-! The CRC over a message and its stored CRC (R135). -/

theorem crcRegister_append_wordBytes (m : List Byte) (w : Word) :
    crcRegister (m ++ wordBytes w) = crcBit^[32] (crcRegister m ^^^ w) := by
  have hlen : (messageBits (wordBytes w)).length = 32 := by rw [messageBits_length, wordBytes_length]
  rw [crcRegister_append, foldl_crcByte_eq_foldl_bitStep, foldl_bitStep _ hlen.le, wordOfBits_wordBytes, hlen]

theorem crcBit_iterate_allOnes : crcBit^[32] 0xFFFFFFFF = 0xDEBB20E3 := by decide +kernel

/-- The register over a message and four more bytes is the residue exactly when these are the message's CRC. -/
theorem crcRegister_append_wordBytes_eq_residue_iff {m : List Byte} {w : Word} :
    crcRegister (m ++ wordBytes w) = 0xDEBB20E3 ↔ w = crc32 m := by
  rw [crcRegister_append_wordBytes, ← crcBit_iterate_allOnes, (crcBit_iterate_injective 32).eq_iff, crc32_eq,
    ← BitVec.xor_right_inj (crcRegister m) (x := w), ← BitVec.xor_assoc, BitVec.xor_self, BitVec.zero_xor]

theorem crc32_eq_residue_iff {m : List Byte} : crc32 m = 0x2144DF1C ↔ crcRegister m = 0xDEBB20E3 :=
  BitVec.xor_left_inj (y := 0xDEBB20E3) 0xFFFFFFFF

/-- Behind its own CRC every message has one and the same CRC. -/
theorem crc32_append_crc32 (m : List Byte) : crc32 (m ++ wordBytes (crc32 m)) = 0x2144DF1C :=
  crc32_eq_residue_iff.2 (crcRegister_append_wordBytes_eq_residue_iff.2 rfl)

/-- The check value of "123456789" (R135). -/
theorem crc32_checkValue : crc32 [0x31, 0x32, 0x33, 0x34, 0x35, 0x36, 0x37, 0x38, 0x39] = 0xCBF43926 := by decide +kernel

/-- All the bytes of FB are the CRC's span and the stored CRC (R93). -/
theorem State.readBytes_frame (s : State) : s.readBytes 0x2000 4136 = s.readBytes 0x2000 4132 ++ wordBytes (s.fbWord 4132) := by
  rw [State.fbWord, State.wordBytes_readWord]
  exact s.readBytes_add 0x2000 4132 4

/-- CHECK leaves the recomputed CRC in `CRC_CALC`, whether the frame is valid or not (R154). -/
theorem State.after_check_crcCalc (s : State) : (s.after .check).crcCalc = s.frameCrc := by
  rw [State.after]
  rcases s.validateThen_cases (fun t => t.succeed) with ⟨-, he⟩ | ⟨-, he⟩ <;> rw [he]
  rfl

end Sys2Proof.Machine

namespace Sys2Proof

open Machine

/-- Settles O21: bits before the window leave one register, bits behind it keep registers apart, and from one register 32 bits can be told from
the register after them. -/
theorem crcDetectsShortBursts : Obligations.CrcDetectsShortBursts := by
  intro m m' p hlen hne hout hcrc
  have hfold : (messageBits m).foldl bitStep 0xFFFFFFFF = (messageBits m').foldl bitStep 0xFFFFFFFF := by
    rw [← foldl_crcByte_eq_foldl_bitStep, ← foldl_crcByte_eq_foldl_bitStep]
    exact (BitVec.xor_left_inj _).1 hcrc
  have hbits : ∀ i, (messageBits m)[i]? ≠ (messageBits m')[i]? → p ≤ i ∧ i < p + 32 := by
    refine fun i hi => hout i fun heq => hi ?_
    rw [messageBits_getElem?, messageBits_getElem?]
    rcases Nat.lt_or_ge (i / 8) m.length with h | h
    · have h' : i / 8 < m'.length := hlen ▸ h
      simpa [h, h'] using heq
    · rw [List.getElem?_eq_none h, List.getElem?_eq_none (hlen ▸ h)]
  exact hne (messageBits_injective hlen
    (eq_of_foldl_bitStep_eq (by rw [messageBits_length, messageBits_length, hlen]) hbits hfold))

/-- Settles O22: the last 32 bit steps are a bijection of the register, so the residue singles out the one stored word that is the CRC. -/
theorem crcResidueTestsTheStoredCrc : Obligations.CrcResidueTestsTheStoredCrc := by
  refine ⟨fun s => ?_, fun s h => ?_, fun s t h => ?_, crc32_checkValue, ?_⟩
  · rw [s.readBytes_frame, crc32_eq_residue_iff, crcRegister_append_wordBytes_eq_residue_iff]
  · rw [s.readBytes_frame]
    exact crcRegister_append_wordBytes_eq_residue_iff.2 h
  · rw [exec_eq_after] at h
    cases h
    exact s.after_check_crcCalc
  · have h := crc32_append_crc32 [0x31, 0x32, 0x33, 0x34, 0x35, 0x36, 0x37, 0x38, 0x39]
    rwa [crc32_checkValue] at h

/-- Settles O19: a well-formed configuration has the decided parameters, and for these the general form is the other one reflected. -/
theorem crcFormsAgree : Obligations.CrcFormsAgree := by
  intro c m
  rw [c.crc_eq, crc32General_decided]

/-- Settles O20: the empty message leaves the register alone, and the other values are computed. -/
theorem crcKnownValues : Obligations.CrcKnownValues :=
  ⟨rfl, by decide +kernel, by decide +kernel, by decide +kernel, crc32_checkValue⟩

end Sys2Proof
end

section
/-! Proofs for 41_frame_ops.md: NOP, ENCODE, DECODE and CHECK (R151 to R154), the two round trips of a frame (R155, R158), the frames the codec
rejects (R156, R134(3)) and what it depends on (R159). -/

namespace Sys2Proof.Machine

/-! What the bytes of the frame determine. -/

theorem State.readByte_eq_of_readBytes_eq {s t : State} {a n : Nat} (h : s.readBytes a n = t.readBytes a n) {i : Nat} (hi : i < n) :
    s.readByte (a + i) = t.readByte (a + i) :=
  List.map_inj_left.1 h i (List.mem_range.2 hi)

theorem State.fbWord_ext {s t : State} {a : Nat} (h : ∀ j, j < 4 → s.fb (a + j) = t.fb (a + j)) : s.fbWord a = t.fbWord a := by
  have hbytes : s.readBytes (fbBase + a) 4 = t.readBytes (fbBase + a) 4 :=
    State.readBytes_ext fun j hj => by rw [Nat.add_assoc]; exact h j hj
  rw [State.fbWord, State.fbWord, State.readWord, State.readWord, hbytes]

theorem State.frameCrc_ext {s t : State} (h : ∀ c, c < 4132 → s.fb c = t.fb c) : s.frameCrc = t.frameCrc :=
  congrArg crc32 (State.readBytes_ext h)

theorem State.fbWord_ne {s t : State} {a j : Nat} (hj : j ≤ 3) (h : s.fb (a + j) ≠ t.fb (a + j)) : s.fbWord a ≠ t.fbWord a := by
  intro hw
  refine h ?_
  rw [State.fb, State.fb, ← Nat.add_assoc, s.readByte_eq_extractLsb' _ hj, t.readByte_eq_extractLsb' _ hj]
  exact congrArg (BitVec.extractLsb' (8 * j) 8) hw

/-! What the codec's operations leave (R152 to R154). -/

theorem State.after_encode_full {s : State} (h : s.nsamp = 512) : s.after .encode = s.packFrame.succeed := if_pos h

theorem State.after_encode_short {s : State} (h : s.nsamp ≠ 512) : s.after .encode = s.raise .structuralPrecondition := if_neg h

/-- A frame is invalid when one of the two tests fails (R99). -/
theorem State.frameValid_eq_false_iff {s : State} :
    s.frameValid = false ↔ s.fbWord 0 ≠ s.config.magic ∨ s.fbWord 4132 ≠ s.frameCrc := by
  rw [← Bool.not_eq_true, s.frameValid_iff, not_and_or]

theorem State.validateThen_valid {s : State} (h : s.frameValid = true) (k : State → State) :
    s.validateThen k = k { s with crcCalc := s.frameCrc } := by
  rcases s.validateThen_cases k with ⟨-, he⟩ | ⟨hinvalid, -⟩
  · exact he
  · exact absurd (h.symm.trans hinvalid) (by decide)

/-- The word STATUS reports for an invalid frame: both tests are made, and each has its bit (R153, R223(3)). -/
def State.badFrameStatus (s : State) : BitVec 12 :=
  if s.fbWord 0 ≠ s.config.magic then (if s.fbWord 4132 ≠ s.frameCrc then 0x331 else 0x131) else 0x231

theorem State.errorStatus_badFrame {s : State} (h : s.frameValid = false) :
    errorStatus (.frameValidationFailure s.badMagic s.badCrc) = s.badFrameStatus := by
  rw [State.frameValid_eq_false_iff] at h
  rw [State.badMagic, State.badCrc, State.badFrameStatus]
  by_cases hm : s.fbWord 0 ≠ s.config.magic
  · by_cases hc : s.fbWord 4132 ≠ s.frameCrc
    · rw [if_pos hm, if_pos hc, decide_eq_true hm, decide_eq_true hc]; rfl
    · rw [if_pos hm, if_neg hc, decide_eq_true hm, decide_eq_false hc]; rfl
  · rw [if_neg hm, decide_eq_false hm, decide_eq_true (h.resolve_left hm)]; rfl

theorem State.validateThen_invalid {s : State} (h : s.frameValid = false) (k : State → State) :
    s.validateThen k = { s with crcCalc := s.frameCrc, status := s.badFrameStatus } := by
  rcases s.validateThen_cases k with ⟨hvalid, -⟩ | ⟨-, he⟩
  · exact absurd (h.symm.trans hvalid) (by decide)
  · rw [he, State.errorStatus_badFrame h]

/-- Whatever the cause, an invalid frame is reported with ERR = 3 and OK = 0 (R27, R220). -/
theorem State.badFrameStatus_fields (s : State) : s.badFrameStatus.extractLsb' 4 4 = 3 ∧ s.badFrameStatus.getLsbD 1 = false := by
  rw [State.badFrameStatus]
  split
  · split
    · decide
    · decide
  · decide

/-- Unpacking neither reads nor writes `CRC_CALC`. -/
theorem State.unpackFrame_crcCalc_comm (s : State) (c : Word) :
    ({ s with crcCalc := c } : State).unpackFrame = { s.unpackFrame with crcCalc := c } := rfl

/-- DECODE of a valid frame (R153). -/
theorem State.after_decode_valid {s : State} (h : s.frameValid = true) :
    s.after .decode = { s.unpackFrame with crcCalc := s.frameCrc, status := successStatus } := by
  rw [State.after, State.validateThen_valid h, State.unpackFrame_crcCalc_comm]
  rfl

/-- CHECK of a valid frame (R154). -/
theorem State.after_check_valid {s : State} (h : s.frameValid = true) :
    s.after .check = { s with crcCalc := s.frameCrc, status := successStatus } :=
  State.validateThen_valid h _

/-- DECODE and CHECK of an invalid frame are one and the same (R153, R154). -/
theorem State.after_invalid {s : State} (h : s.frameValid = false) {i : Instr} (hi : i = .decode ∨ i = .check) :
    s.after i = { s with crcCalc := s.frameCrc, status := s.badFrameStatus } := by
  obtain rfl | rfl := hi
  · exact State.validateThen_invalid h fun t => t.unpackFrame.succeed
  · exact State.validateThen_invalid h fun t => t.succeed

/-- DECODE reports success of valid frames alone. -/
theorem State.frameValid_of_after_decode {s : State} (h : (s.after .decode).status = 0x003) : s.frameValid = true := by
  cases hv : s.frameValid with
  | true => rfl
  | false =>
    have hok := s.badFrameStatus_fields.2
    rw [State.after_invalid hv (.inl rfl)] at h
    rw [show s.badFrameStatus = 0x003 from h] at hok
    exact absurd hok (by decide)

/-! What the buffers hold after ENCODE and after DECODE of a valid frame. -/

section AfterEncode

variable {s : State} (h : s.nsamp = 512)
include h

theorem State.after_encode_status : (s.after .encode).status = 0x003 := by
  rw [State.after_encode_full h, State.succeed_status, successStatus]

theorem State.after_encode_readByte (a : Nat) : (s.after .encode).readByte a = s.packFrame.readByte a := by
  rw [State.after_encode_full h]; exact State.readByte_congr rfl rfl a

theorem State.after_encode_readBytes (a n : Nat) : (s.after .encode).readBytes a n = s.packFrame.readBytes a n := by
  rw [State.after_encode_full h]; exact State.readBytes_congr rfl rfl a n

theorem State.after_encode_fbWord (a : Nat) : (s.after .encode).fbWord a = s.packFrame.fbWord a := by
  rw [State.after_encode_full h]; exact State.readWord_congr rfl rfl _

/-- Every field register stands at its frame offset (R93). -/
theorem State.after_encode_unpackFields : (s.after .encode).unpackFields = s.x := by
  rw [← s.packFrame_unpackFields, State.after_encode_full h]; exact State.unpackFields_congr rfl rfl

/-- Every sample stands at its frame offset (R93). -/
theorem State.after_encode_sample {k : Nat} (hk : k < 1024) : (s.after .encode).fbWord (4 + 4 * k) = s.sb k := by
  rw [State.after_encode_fbWord h, s.packFrame_sample k hk]

/-- `CRC_CALC` is the CRC over the frame's span (R98). -/
theorem State.after_encode_crcCalc : (s.after .encode).crcCalc = (s.after .encode).frameCrc := by
  rw [State.frameCrc, State.after_encode_readBytes h, State.after_encode_full h]
  exact s.packFrame_frameCrc.symm

/-- The CRC is stored behind the span (R98). -/
theorem State.after_encode_storedCrc : (s.after .encode).fbWord 4132 = (s.after .encode).frameCrc := by
  rw [State.after_encode_fbWord h, s.packFrame_crc, ← State.after_encode_crcCalc h, State.after_encode_full h]
  rfl

theorem State.after_encode_magic : (s.after .encode).fbWord 0 = s.config.magic := by
  rw [State.after_encode_fbWord h, s.packFrame_magic]

theorem State.after_encode_config : (s.after .encode).config = s.config := by
  rw [State.after_encode_full h]; rfl

theorem State.after_encode_frameValid : (s.after .encode).frameValid = true := by
  rw [State.frameValid_iff, State.after_encode_config h]
  exact ⟨State.after_encode_magic h, State.after_encode_storedCrc h⟩

end AfterEncode

section AfterDecode

variable {s : State} (h : s.frameValid = true)
include h

theorem State.after_decode_status : (s.after .decode).status = 0x003 := by
  rw [State.after_decode_valid h, successStatus]

theorem State.after_decode_nsamp : (s.after .decode).nsamp = 512 := by
  rw [State.after_decode_valid h, State.unpackFrame_nsamp]

theorem State.after_decode_crcCalc : (s.after .decode).crcCalc = s.frameCrc := by
  rw [State.after_decode_valid h]

theorem State.after_decode_sb {k : Nat} (hk : k < 1024) : (s.after .decode).sb k = s.fbWord (4 + 4 * k) := by
  rw [← s.unpackFrame_sb k hk, State.after_decode_valid h]; exact State.readWord_congr rfl rfl _

theorem State.after_decode_x : (s.after .decode).x = s.unpackFields := by
  rw [State.after_decode_valid h]; rfl

theorem State.after_decode_readByte_outside {a : Nat} (ha : a < sbBase ∨ sbBase + 4096 ≤ a) :
    (s.after .decode).readByte a = s.readByte a := by
  rw [← s.unpackFrame_readByte_outside ha, State.after_decode_valid h]; exact State.readByte_congr rfl rfl a

/-- DECODE leaves FB (R153). -/
theorem State.after_decode_fbWord (a : Nat) : (s.after .decode).fbWord a = s.fbWord a :=
  State.fbWord_ext fun _ _ => State.after_decode_readByte_outside h (.inr (by rw [sbBase, fbBase]; omega))

theorem State.after_decode_samples : (s.after .decode).samples = s.unpackSamples :=
  List.map_congr_left fun _ hk => State.after_decode_sb h (List.mem_range.1 hk)

end AfterDecode

/-! The frame made of a valid frame's own contents is that frame (R158). -/

theorem State.wordsBytes_unpackSamples (s : State) : wordsBytes s.unpackSamples = s.readBytes (fbBase + 4) 4096 := by
  rw [← s.wordsBytes_readWords (fbBase + 4) 1024, State.unpackSamples]
  simp only [State.fbWord, Nat.add_assoc, sampleWords]

/-- The eight single-byte fields stand one after the other (R96). -/
theorem State.telemetry_unpackFields (s : State) : s.unpackFields.telemetry = s.readBytes (fbBase + 4104) 8 := rfl

theorem State.packSpan_unpack (s : State) :
    packSpan (s.fbWord 0) s.unpackSamples s.unpackFields = s.readBytes fbBase crcSpan := by
  have hmagic : wordBytes (s.fbWord 0) = s.readBytes fbBase 4 := s.wordBytes_readWord fbBase
  have hflags : wordBytes s.unpackFields.flags = s.readBytes (fbBase + 4100) 4 := s.wordBytes_readWord _
  have hatu : wordBytes s.unpackFields.atu = s.readBytes (fbBase + 4112) 4 := s.wordBytes_readWord _
  have hrsv3 : wordsBytes [s.unpackFields.rsv3_0, s.unpackFields.rsv3_1, s.unpackFields.rsv3_2, s.unpackFields.rsv3_3] =
      s.readBytes (fbBase + 4116) 16 := s.wordsBytes_readWords (fbBase + 4116) 4
  rw [packSpan, hmagic, s.wordsBytes_unpackSamples, hflags, s.telemetry_unpackFields, hatu, hrsv3,
    ← s.readBytes_add fbBase 4 4096, ← s.readBytes_add fbBase 4100 4, ← s.readBytes_add fbBase 4104 8,
    ← s.readBytes_add fbBase 4112 4, ← s.readBytes_add fbBase 4116 16]
  rfl

theorem State.frameOf_unpack {s : State} (h : s.frameValid = true) :
    frameOf s.config.magic s.unpackSamples s.unpackFields = s.readBytes fbBase frameBytes := by
  obtain ⟨hmagic, hcrc⟩ := s.frameValid_iff.1 h
  rw [frameOf, ← hmagic, s.packSpan_unpack]
  calc
    _ = s.readBytes fbBase crcSpan ++ wordBytes (s.fbWord 4132) := by rw [hcrc, State.frameCrc]
    _ = s.readBytes fbBase frameBytes := s.readBytes_frame.symm

theorem State.after_encode_frame {s : State} (h : s.nsamp = 512) :
    (s.after .encode).readBytes fbBase frameBytes = frameOf s.config.magic s.samples s.x := by
  rw [State.after_encode_readBytes h, s.packFrame_frame]

/-! Two states with the same frame. -/

section SameFrame

variable {s s' : State} (h : ∀ a, a < 4136 → s'.fb a = s.fb a)
include h

theorem State.fbWord_of_sameFrame {a : Nat} (ha : a + 4 ≤ 4136) : s'.fbWord a = s.fbWord a :=
  State.fbWord_ext fun j hj => h (a + j) (by omega)

theorem State.frameCrc_of_sameFrame : s'.frameCrc = s.frameCrc :=
  State.frameCrc_ext fun c hc => h c (by omega)

theorem State.frameValid_of_sameFrame (hcfg : s'.cfg = s.cfg) : s'.frameValid = s.frameValid := by
  rw [Bool.eq_iff_iff, s'.frameValid_iff, s.frameValid_iff, State.fbWord_of_sameFrame h (by decide),
    State.fbWord_of_sameFrame h (by decide), State.frameCrc_of_sameFrame h, State.config, hcfg]

theorem State.badFrameStatus_of_sameFrame (hcfg : s'.cfg = s.cfg) : s'.badFrameStatus = s.badFrameStatus := by
  rw [State.badFrameStatus, State.badFrameStatus, State.fbWord_of_sameFrame h (by decide),
    State.fbWord_of_sameFrame h (by decide), State.frameCrc_of_sameFrame h, State.config, hcfg]

theorem State.unpackFields_of_sameFrame : s'.unpackFields = s.unpackFields := by
  have hword : ∀ a, a + 4 ≤ 4136 → s'.fbWord a = s.fbWord a := fun a => State.fbWord_of_sameFrame h
  simp only [State.unpackFields, h, hword, Nat.reduceAdd, Nat.reduceLT, Nat.reduceLeDiff]

/-- DECODE and CHECK report the same of the same frame (R159). -/
theorem State.after_of_sameFrame (hcfg : s'.cfg = s.cfg) {i : Instr} (hi : i = .decode ∨ i = .check) :
    (s'.after i).status = (s.after i).status ∧ (s'.after i).crcCalc = (s.after i).crcCalc := by
  have hvalid := State.frameValid_of_sameFrame h hcfg
  have hcrc := State.frameCrc_of_sameFrame h
  cases hv : s.frameValid with
  | false =>
    rw [State.after_invalid hv hi, State.after_invalid (hvalid.trans hv) hi]
    exact ⟨State.badFrameStatus_of_sameFrame h hcfg, hcrc⟩
  | true =>
    obtain rfl | rfl := hi
    · exact ⟨by rw [State.after_decode_status hv, State.after_decode_status (hvalid.trans hv)],
        by rw [State.after_decode_crcCalc hv, State.after_decode_crcCalc (hvalid.trans hv), hcrc]⟩
    · rw [State.after_check_valid hv, State.after_check_valid (hvalid.trans hv)]
      exact ⟨rfl, hcrc⟩

end SameFrame

/-- ENCODE does the same with the same `NSAMP`, field registers and samples (R159). -/
theorem State.after_encode_of_sameOperands {s s' : State} (hcfg : s'.cfg = s.cfg) (hn : s'.nsamp = s.nsamp) (hx : s'.x = s.x)
    (hsb : ∀ k, k < 1024 → s'.sb k = s.sb k) :
    (s'.after .encode).status = (s.after .encode).status ∧
    (s.nsamp = 512 → (s'.after .encode).crcCalc = (s.after .encode).crcCalc ∧
      ∀ a, a < 4136 → (s'.after .encode).fb a = (s.after .encode).fb a) := by
  by_cases h : s.nsamp = 512
  · have h' := hn.trans h
    have hsamples : s'.samples = s.samples := List.map_congr_left fun k hk => hsb k (List.mem_range.1 hk)
    have hframe : (s'.after .encode).readBytes fbBase frameBytes = (s.after .encode).readBytes fbBase frameBytes := by
      rw [State.after_encode_frame h', State.after_encode_frame h, hsamples, hx, State.config, hcfg]
    have hbyte : ∀ a, a < 4136 → (s'.after .encode).fb a = (s.after .encode).fb a :=
      fun a ha => State.readByte_eq_of_readBytes_eq hframe ha
    refine ⟨by rw [State.after_encode_status h', State.after_encode_status h], fun _ => ⟨?_, hbyte⟩⟩
    rw [State.after_encode_crcCalc h', State.after_encode_crcCalc h, State.frameCrc_of_sameFrame hbyte]
  · rw [State.after_encode_short h, State.after_encode_short (hn ▸ h)]
    exact ⟨rfl, fun hfull => absurd hfull h⟩

/-- The codec makes no bus request (R159). -/
theorem State.after_codec_busLog (s : State) {i : Instr} (hi : i = .encode ∨ i = .decode ∨ i = .check) :
    (s.after i).busLog = s.busLog := by
  obtain rfl | hread := hi
  · by_cases h : s.nsamp = 512
    · rw [State.after_encode_full h]; rfl
    · rw [State.after_encode_short h]; rfl
  · cases hv : s.frameValid with
    | false => rw [State.after_invalid hv hread]
    | true =>
      obtain rfl | rfl := hread
      · rw [State.after_decode_valid hv]; rfl
      · rw [State.after_check_valid hv]

/-! A frame with one byte changed (R156). -/

/-- Messages of one length that differ in exactly one byte have different CRCs (R134). -/
theorem crc32_ne_of_one_byte {m m' : List Byte} {a : Nat} (hlen : m.length = m'.length) (hne : m[a]? ≠ m'[a]?)
    (hsame : ∀ i, i ≠ a → m[i]? = m'[i]?) : crc32 m ≠ crc32 m' := by
  refine Sys2Proof.crcDetectsShortBursts m m' (8 * a) hlen (fun hm => hne (by rw [hm])) fun i hi => ?_
  have hbyte : i / 8 = a := by
    by_contra hia
    exact hi (by rw [List.getD_eq_getElem?_getD, List.getD_eq_getElem?_getD, hsame _ hia])
  omega

section OneByteChanged

variable {s s' : State} {a : Nat} (hne : s'.fb a ≠ s.fb a) (hsame : ∀ c, c < 4136 → c ≠ a → s'.fb c = s.fb c)
include hne hsame

theorem State.frameCrc_ne_of_one_byte (ha : a < 4132) : s'.frameCrc ≠ s.frameCrc := by
  refine crc32_ne_of_one_byte (a := a) (by simp) ?_ fun i hi => ?_
  · simpa [State.readBytes, State.fb, crcSpan, ha] using hne
  · simp only [State.readBytes, List.getElem?_map, crcSpan]
    rcases Nat.lt_or_ge i 4132 with hlt | hge
    · rw [List.getElem?_range hlt]
      exact congrArg some (hsame i (by omega) hi)
    · rw [List.getElem?_eq_none (by rwa [List.length_range])]; rfl

/-- The stored CRC of a valid frame is no longer the frame's CRC: one of the two has changed. -/
theorem State.storedCrc_ne_of_one_byte (ha : a < 4136) (hcrc : s.fbWord 4132 = s.frameCrc) : s'.fbWord 4132 ≠ s'.frameCrc := by
  rcases Nat.lt_or_ge a 4132 with hspan | hstored
  · have hword : s'.fbWord 4132 = s.fbWord 4132 := State.fbWord_ext fun j hj => hsame _ (by omega) (by omega)
    rw [hword, hcrc]
    exact (State.frameCrc_ne_of_one_byte hne hsame hspan).symm
  · have hspan : s'.frameCrc = s.frameCrc := State.frameCrc_ext fun c hc => hsame c (by omega) (by omega)
    rw [hspan, ← hcrc]
    obtain ⟨j, rfl⟩ := Nat.exists_eq_add_of_le hstored
    exact State.fbWord_ne (by omega) hne

/-- The magic word changes exactly when the byte is one of its four. -/
theorem State.magic_ne_iff_of_one_byte : s'.fbWord 0 ≠ s.fbWord 0 ↔ a < 4 := by
  refine ⟨fun hword => ?_, fun ha => ?_⟩
  · by_contra ha
    exact hword (State.fbWord_ext fun j hj => hsame _ (by omega) (by omega))
  · exact State.fbWord_ne (j := a) (by omega) (by rwa [Nat.zero_add])

end OneByteChanged

/-- Flipping one bit changes the byte. -/
theorem xor_one_shiftLeft_ne (x : Byte) {b : Nat} (hb : b < 8) : x ^^^ (1#8 <<< b) ≠ x := by
  have hbit : ∀ b < 8, 1#8 <<< b ≠ 0#8 := by decide
  intro h
  exact hbit b hb ((BitVec.xor_right_inj x).1 (h.trans BitVec.xor_zero.symm))

end Sys2Proof.Machine

namespace Sys2Proof

open Machine

/-- Settles O29: the frame ENCODE leaves is valid, and DECODE unpacks from it what ENCODE packed. -/
theorem encodeDecodeRoundTrip : Obligations.EncodeDecodeRoundTrip := by
  intro s h
  have hv := State.after_encode_frameValid h
  refine ⟨s.after .encode, (s.after .encode).after .decode, exec_eq_after _ _, exec_eq_after _ _, State.after_encode_status h,
    State.after_decode_status hv, fun k hk => ?_, ?_, ?_, ?_⟩
  · rw [State.after_decode_sb hv hk, State.after_encode_sample h hk]
  · rw [State.after_decode_x hv, State.after_encode_unpackFields h]
  · rw [State.after_decode_nsamp hv, h]
  · rw [State.after_decode_fbWord hv, State.after_encode_storedCrc h, State.after_decode_crcCalc hv]

/-- Settles O30: DECODE succeeds on valid frames alone, and a valid frame is what its own contents are packed into. -/
theorem relayReproducesTheFrame : Obligations.RelayReproducesTheFrame := by
  intro s t ht hok
  rw [exec_eq_after] at ht
  cases ht
  have hv := State.frameValid_of_after_decode hok
  have hn := State.after_decode_nsamp hv
  have hcfg : (s.after .decode).config = s.config := by rw [State.after_decode_valid hv]; rfl
  refine ⟨_, exec_eq_after _ _, State.after_encode_status hn, fun a ha => ?_⟩
  refine State.readByte_eq_of_readBytes_eq (n := frameBytes) ?_ ha
  calc
    _ = frameOf (s.after .decode).config.magic (s.after .decode).samples (s.after .decode).x := State.after_encode_frame hn
    _ = frameOf s.config.magic s.unpackSamples s.unpackFields := by
      rw [hcfg, State.after_decode_samples hv, State.after_decode_x hv]
    _ = s.readBytes fbBase frameBytes := State.frameOf_unpack hv

/-- Settles O24: the fields are those that DECODE would unpack from the packed frame. -/
theorem encodePacksTheFrame : Obligations.EncodePacksTheFrame := by
  intro s h
  have hx := State.after_encode_unpackFields h
  refine ⟨s.after .encode, exec_eq_after _ _, by rw [State.after_encode_full h]; rfl, State.after_encode_magic h,
    fun k hk => State.after_encode_sample h hk, congrArg FieldRegs.flags hx, congrArg FieldRegs.rsv1 hx, congrArg FieldRegs.txpwr hx,
    congrArg FieldRegs.vswr hx, congrArg FieldRegs.alc hx, congrArg FieldRegs.vext hx, congrArg FieldRegs.vbat hx,
    congrArg FieldRegs.batcap hx, congrArg FieldRegs.rsv2 hx, congrArg FieldRegs.atu hx, congrArg FieldRegs.rsv3_0 hx,
    congrArg FieldRegs.rsv3_1 hx, congrArg FieldRegs.rsv3_2 hx, congrArg FieldRegs.rsv3_3 hx, State.after_encode_storedCrc h,
    State.after_encode_crcCalc h, fun a ha => ?_⟩
  rw [State.after_encode_readByte h, s.packFrame_readByte_outside ha]

/-- Settles O26: the frame is valid, so its CRC is the stored one, and the rest is what the unpacking leaves. -/
theorem decodeUnpacksAValidFrame : Obligations.DecodeUnpacksAValidFrame := by
  intro s hmagic hcrc
  have hv := s.frameValid_iff.2 ⟨hmagic, hcrc⟩
  refine ⟨s.after .decode, exec_eq_after _ _, ?_, fun k hk => State.after_decode_sb hv hk, State.after_decode_x hv,
    fun a ha => State.after_decode_readByte_outside hv ha⟩
  rw [State.after_decode_valid hv, hcrc]
  rfl

/-- Settles O27: the frame is valid, so its CRC is the stored one. -/
theorem checkAcceptsAValidFrame : Obligations.CheckAcceptsAValidFrame := by
  intro s hmagic hcrc
  rw [exec_eq_after, State.after_check_valid (s.frameValid_iff.2 ⟨hmagic, hcrc⟩), hcrc]
  rfl

/-- Settles O28: DECODE and CHECK share the validation. -/
theorem invalidFrameIsRejected : Obligations.InvalidFrameIsRejected := by
  intro s i hi hbad
  rw [exec_eq_after, State.after_invalid (State.frameValid_eq_false_iff.2 hbad) hi]
  rfl

/-- Settles O31: the CRC tells messages apart that differ in one byte, and so the stored CRC no longer fits, wherever the bit is. -/
theorem flippedBitIsRejected : Obligations.FlippedBitIsRejected := by
  intro s s' hmagic hcrc hcfg
  refine ⟨fun hbad i hi => ⟨s'.after i, exec_eq_after _ _, ?_⟩, fun a b ha hb hflip i hi => ⟨s'.after i, exec_eq_after _ _, ?_⟩⟩
  · rw [State.statusErr_eq, State.statusOk_eq, State.after_invalid (State.frameValid_eq_false_iff.2 (.inl hbad)) hi]
    exact s'.badFrameStatus_fields
  · have hne : s'.fb a ≠ s.fb a := by
      rw [hflip a ha, if_pos rfl]
      exact xor_one_shiftLeft_ne _ hb
    have hsame : ∀ c, c < 4136 → c ≠ a → s'.fb c = s.fb c := fun c hc hca => by rw [hflip c hc, if_neg hca]
    have hstored := State.storedCrc_ne_of_one_byte hne hsame ha hcrc
    have hword : s'.fbWord 0 ≠ s'.config.magic ↔ a < 4 := by
      rw [State.config, hcfg, ← hmagic]
      exact State.magic_ne_iff_of_one_byte hne hsame
    rw [State.after_invalid (State.frameValid_eq_false_iff.2 (.inr hstored)) hi]
    simp only [State.badFrameStatus, hword, if_pos hstored]

/-- Settles O32: ENCODE's frame is made of its operands; validation and unpacking read the bytes of FB alone. -/
theorem codecDependsOnItsOperandsAlone : Obligations.CodecDependsOnItsOperandsAlone := by
  intro s s' t t' hcfg
  simp only [exec_eq_after, Host.Outcome.next.injEq]
  refine ⟨?_, ?_, ?_, ?_⟩
  · rintro rfl rfl hn hx hsb
    exact State.after_encode_of_sameOperands hcfg hn hx hsb
  · rintro rfl rfl hfb
    obtain ⟨hstatus, hcrc⟩ := State.after_of_sameFrame hfb hcfg (.inl rfl)
    refine ⟨hstatus, hcrc, fun hok => ?_⟩
    have hv := State.frameValid_of_after_decode hok
    have hv' := State.frameValid_of_after_decode (hstatus.trans hok)
    refine ⟨?_, ?_, fun k hk => ?_⟩
    · rw [State.after_decode_x hv', State.after_decode_x hv, State.unpackFields_of_sameFrame hfb]
    · rw [State.after_decode_nsamp hv', State.after_decode_nsamp hv]
    · rw [State.after_decode_sb hv' hk, State.after_decode_sb hv hk, State.fbWord_of_sameFrame hfb (by omega)]
  · rintro rfl rfl hfb
    exact State.after_of_sameFrame hfb hcfg (.inr rfl)
  · rintro i hi rfl
    exact s.after_codec_busLog hi

/-- Settles O23: the word the host reads is the success word and the OPEN bit. -/
theorem nopReportsSuccess : Obligations.NopReportsSuccess := by
  intro s
  refine ⟨s.succeed, rfl, rfl, ?_⟩
  obtain ⟨-, hread, -⟩ := hostReadAtEveryMappedOffset s.succeed
  simp only [hread, State.statusWord, State.succeed_config, State.succeed_openFlag, State.succeed_status, Bool.and_eq_true]
  split
  · rfl
  · rfl

/-- Settles O25: the code of StructuralPrecondition is 4 (R220). -/
theorem encodeNeedsFiveHundredTwelve : Obligations.EncodeNeedsFiveHundredTwelve := by
  intro s h
  rw [exec_eq_after, State.after_encode_short h]
  rfl

end Sys2Proof
end

section
/-! Proofs for 42_command_ops.md: the band index (R180, R181), the operations of the command unit (R182 to R187), the value that CMD_IDLE
sends after CMD_SEND (R189), and the bus requests an operation makes (R190). -/

namespace Sys2Proof.Machine

/-! The band index (R180). -/

theorem rungMatches_iff {r : Rung} {f : Word} :
    rungMatches r f = true ↔ if r.inclusive then f ≤ r.bound else f < r.bound := by
  rw [rungMatches]
  split <;> exact decide_eq_true_iff

theorem not_rungMatches_iff {r : Rung} {f : Word} :
    ¬ rungMatches r f = true ↔ if r.inclusive then ¬ f ≤ r.bound else ¬ f < r.bound := by
  rw [rungMatches_iff]
  split <;> exact Iff.rfl

/-- Entries that do not match are passed over. -/
theorem ladderIndex_append_of_not_matches {pre : List Rung} {f : Word} (h : ∀ q ∈ pre, ¬ rungMatches q f = true)
    (post : List Rung) (last : Fin 23) : ladderIndex (pre ++ post) last f = ladderIndex post last f := by
  induction pre with
  | nil => rfl
  | cons q pre ih =>
    obtain ⟨hq, hpre⟩ := List.forall_mem_cons.1 h
    exact (ladderIndex_cons_of_not_matches hq (pre ++ post) last).trans (ih hpre)

theorem State.bandOfFreq_eq_iff {s : State} {b : Byte} : s.bandOfFreq = b ↔ (bandIndex s.config s.cmdFreq).val = b.toNat := by
  rw [BitVec.toNat_eq, s.bandOfFreq_toNat]

/-! The bytes of the requests (R100, R102, R103). -/

/-- The band argument is the band's byte one place up (R102). -/
theorem bandArgument_toNat (b : Byte) : (bandArgument b).toNat = 256 * b.toNat := by
  have hb := b.isLt
  simp only [bandArgument, BitVec.toNat_shiftLeft, BitVec.toNat_setWidth, Nat.shiftLeft_eq]
  omega

theorem bandArgument_eq_ofNat (b : Byte) : bandArgument b = BitVec.ofNat 32 (256 * b.toNat) := by
  rw [← bandArgument_toNat, BitVec.ofNat_toNat, BitVec.setWidth_eq]

theorem State.bandArgument_bandOfFreq (s : State) :
    bandArgument s.bandOfFreq = BitVec.ofNat 32 (256 * (bandIndex s.config s.cmdFreq).val) := by
  rw [bandArgument_eq_ofNat, s.bandOfFreq_toNat]

theorem wordBytes_bandArgument (b : Byte) : wordBytes (bandArgument b) = [0, b, 0, 0] := by
  have hb := b.isLt
  have hshift : 256 * b.toNat / 256 = b.toNat := Nat.mul_div_cancel_left _ (by decide)
  have hover : b.toNat / 256 = 0 := Nat.div_eq_of_lt hb
  have hlow : BitVec.ofNat 8 (256 * b.toNat) = 0 := BitVec.eq_of_toNat_eq <| by
    rw [BitVec.toNat_ofNat]
    exact Nat.mul_mod_right 256 _
  rw [wordBytes, bandArgument_toNat]
  simp only [leBytes, hshift, hover, hlow, BitVec.ofNat_toNat, BitVec.setWidth_eq]
  rfl

/-- The address field of a Wire Command, most significant byte first, and its value (R100, R101). -/
theorem wireCmd_eq (r : Nat) (v : Word) :
    wireCmd r v = [(BitVec.ofNat 16 (4 * r)).extractLsb' 8 8, (BitVec.ofNat 16 (4 * r)).extractLsb' 0 8] ++ wordBytes v := by
  rw [wordBytes_eq]
  exact wireCommandBytes r v

/-- The burst of a table given entry by entry (R103). -/
theorem burstBytes_map (c : Cfg) (f : Nat → Word) (rs : List Nat) :
    burstBytes c (rs.map f) = [c.burstHdr0, c.burstHdr1] ++ rs.flatMap fun r => wordBytes (f r) := by
  rw [burstBytes, wordsBytes, List.flatMap_map]

theorem State.shadowTable_loadDefaults (s : State) :
    s.loadDefaults.shadowTable = (List.range (s.config.nReg + 1)).map (defaultWord s.config) :=
  List.map_congr_left fun r hr => s.shadow_loadDefaults r (Nat.le_of_lt_succ (List.mem_range.1 hr))

/-! What each operation of the command unit leaves, case by case (R183 to R187). -/

/-- With the command unit an operation of it is its pseudocode. -/
theorem exec_of_present {s : State} (hc : s.config.cmdPresent = true) {i : Instr} {op : State → State}
    (hi : s.after i = s.withCommandUnit op) : exec i s = .next (op s) := by
  rw [exec_eq_after, hi, State.withCommandUnit_present hc]

theorem State.busWrite_of_answer {s : State} {a : Bool} (ha : s.writeAnswer = a) (bs : List Byte) :
    s.busWrite bs = { s with
      writeAnswers := s.writeAnswers.tail, draws := s.draws + 1, busLog := s.busLog ++ [.writeReq bs a] } := by
  subst ha
  rfl

theorem State.opened_of_answer {s : State} {a : Bool} (ha : s.openAnswer = a) :
    s.opened = { s with
      openFlag := a, openAnswers := s.openAnswers.tail, draws := s.draws + 1, busLog := s.busLog ++ [.openReq a] } := by
  subst ha
  rfl

/-- The burst changes nothing but STATUS, whatever the answer (R184, R186). -/
theorem State.sendBurst_eq (s : State) :
    s.sendBurst = { s with
      status := if s.writeAnswer then 0x003 else 0x021, writeAnswers := s.writeAnswers.tail, draws := s.draws + 1,
      busLog := s.busLog ++ [.writeReq (burstBytes s.config s.shadowTable) s.writeAnswer] } := by
  rcases s.sendBurst_cases with ⟨ha, he⟩ | ⟨ha, he⟩ <;> rw [he, State.busWrite_of_answer ha, ha] <;> rfl

theorem State.cmdIdle_open {s : State} (ho : s.openFlag = true) : s.cmdIdle = s.sendBurst := if_pos ho

theorem State.cmdIdle_closed {s : State} (ho : s.openFlag = false) : s.cmdIdle = s.raise .transportWriteFailure := by
  simpa [ho] using s.cmdIdle_cases

theorem State.cmdInit_refused {s : State} (ha : s.openAnswer = false) : s.cmdInit = s.opened.raise .transportOpenFailure := by
  simpa [ha] using s.cmdInit_cases

theorem State.cmdInit_opened {s : State} (ha : s.openAnswer = true) : s.cmdInit = s.opened.loadDefaults.sendBurst := if_pos ha

theorem State.opened_config (s : State) : s.opened.config = s.config := rfl
theorem State.loadDefaults_config (s : State) : s.loadDefaults.config = s.config := rfl

/-- CMD_INIT once the bus is open: the table holds the defaults and is sent, whatever the answer to the burst (R184). -/
theorem exec_cmdInit_opened {s : State} (hc : s.config.cmdPresent = true) (ha : s.openAnswer = true) :
    ∃ t, exec .cmdInit s = .next t ∧
      t = { s with
        mem := t.mem, openFlag := true, status := if s.busOpen.writeAnswer then 0x003 else 0x021,
        openAnswers := s.openAnswers.tail, writeAnswers := s.writeAnswers.tail, draws := s.draws + 2
        busLog := s.busLog ++ [.openReq true, .writeReq ([s.config.burstHdr0, s.config.burstHdr1] ++
          (List.range (s.config.nReg + 1)).flatMap fun r => wordBytes (s.config.defaults.getD r 0)) s.busOpen.writeAnswer] } ∧
      (∀ r, r ≤ s.config.nReg → t.shadow r = s.config.defaults.getD r 0) ∧
      ∀ a, a < shadowBase ∨ shadowBase + 4 * (s.config.nReg + 1) ≤ a → t.readByte a = s.readByte a := by
  have hmem : s.cmdInit.mem = s.opened.loadDefaults.mem := by rw [State.cmdInit_opened ha, State.sendBurst_eq]
  have hresets : s.cmdInit.resets = s.opened.loadDefaults.resets := by rw [State.cmdInit_opened ha, State.sendBurst_eq]
  have hburst : burstBytes s.config s.opened.loadDefaults.shadowTable = [s.config.burstHdr0, s.config.burstHdr1] ++
      (List.range (s.config.nReg + 1)).flatMap fun r => wordBytes (defaultWord s.config r) := by
    rw [State.shadowTable_loadDefaults]
    exact burstBytes_map _ _ _
  refine ⟨s.cmdInit, exec_of_present hc rfl, ?_, fun r hr => ?_, fun a hout => ?_⟩
  · rw [hmem, State.cmdInit_opened ha, State.sendBurst_eq, State.loadDefaults_config, State.opened_config, hburst,
      State.opened_of_answer ha, List.append_cons s.busLog (.openReq true) [_]]
    rfl
  · exact (State.readWord_congr hmem hresets _).trans (s.opened.shadow_loadDefaults r hr)
  · calc
      _ = s.opened.loadDefaults.readByte a := State.readByte_congr hmem hresets a
      _ = s.opened.readByte a := s.opened.readByte_loadDefaults_outside hout
      _ = s.readByte a := State.readByte_congr rfl rfl a

theorem State.cmdSend_outOfRange {s : State} (hr : s.config.nReg < s.cmdReg.toNat) : s.cmdSend = s.raise .structuralPrecondition :=
  if_pos hr

theorem State.cmdSend_inRange {s : State} (hr : s.cmdReg.toNat ≤ s.config.nReg) : s.cmdSend = s.send s.cmdReg.toNat s.cmdVal :=
  if_neg (Nat.not_lt.2 hr)

theorem State.cmdSetband_sameBand {s : State} (hb : (bandIndex s.config s.cmdFreq).val = s.curBand.toNat) :
    s.cmdSetband = s.succeed :=
  if_pos (State.bandOfFreq_eq_iff.2 hb)

/-- The inner send runs with the new band in CUR_BAND (R187). -/
theorem State.cmdSetband_newBand {s : State} (hb : (bandIndex s.config s.cmdFreq).val ≠ s.curBand.toNat) :
    s.cmdSetband = { s with curBand := s.bandOfFreq }.send s.config.bandReg (bandArgument s.bandOfFreq) :=
  if_neg (mt State.bandOfFreq_eq_iff.1 hb)

/-- The inner send answered success: one request, one entry of the table, and no other byte (R183). -/
theorem State.send_recorded {s t : State} {r : Nat} {v : Word} (ht : t = s.send r v) (ho : s.openFlag = true)
    (ha : s.writeAnswer = true) :
    t = { s with
      mem := t.mem, status := 0x003, writeAnswers := s.writeAnswers.tail, draws := s.draws + 1,
      busLog := s.busLog ++ [.writeReq (wireCmd r v) true] } ∧
    t.shadow r = v ∧
    ∀ a, a < shadowBase + 4 * r ∨ shadowBase + 4 * r + 4 ≤ a → t.readByte a = s.readByte a := by
  obtain rfl : t = ((s.busWrite (wireCmd r v)).setShadow r v).succeed := by simpa [ho, ha, ← ht] using s.send_cases r v
  refine ⟨?_, ?_, fun a hout => ?_⟩
  · rw [State.busWrite_of_answer ha]
    rfl
  · exact (State.readWord_congr rfl rfl _).trans (State.readWord_writeWord (s.busWrite (wireCmd r v)) _ v)
  · calc
      _ = (s.writeWord (shadowBase + 4 * r) v).readByte a := State.readByte_congr rfl rfl a
      _ = s.readByte a := s.readByte_writeWord_outside v hout

theorem State.send_closed {s : State} (ho : s.openFlag = false) (r : Nat) (v : Word) :
    s.send r v = s.raise .transportWriteFailure := by
  simpa [ho] using s.send_cases r v

theorem State.send_refused {s : State} (ho : s.openFlag = true) (ha : s.writeAnswer = false) (r : Nat) (v : Word) :
    s.send r v = { s with
      status := 0x021, writeAnswers := s.writeAnswers.tail, draws := s.draws + 1,
      busLog := s.busLog ++ [.writeReq (wireCmd r v) false] } := by
  have he : s.send r v = (s.busWrite (wireCmd r v)).raise .transportWriteFailure := by simpa [ho, ha] using s.send_cases r v
  rw [he, State.busWrite_of_answer ha]
  rfl

/-- The inner send that fails: STATUS, and one request if the bus is open (R183, R188). -/
theorem State.send_failed {s t : State} {r : Nat} {v : Word} (ht : t = s.send r v)
    (h : s.openFlag = false ∨ s.writeAnswer = false) :
    t = { s with
      status := 0x021, writeAnswers := t.writeAnswers, draws := t.draws,
      busLog := s.busLog ++ if s.openFlag then [.writeReq (wireCmd r v) false] else [] } := by
  cases ho : s.openFlag with
  | false =>
    rw [ht, State.send_closed ho, if_neg Bool.false_ne_true, List.append_nil, ← ho]
    rfl
  | true =>
    have ha := h.resolve_left (by rw [ho]; decide)
    rw [ht, State.send_refused ho ha, if_pos rfl, ← ho]

theorem errorStatus_ne_success (e : OpError) : errorStatus e ≠ 0x003 := by
  cases e with
  | frameValidationFailure badMagic badCrc => cases badMagic <;> cases badCrc <;> decide
  | _ => decide

/-- CMD_SEND succeeds only on a register of the table, over an open bus that takes the write (R185). -/
theorem State.cmdSend_succeeded {s : State} (h : s.cmdSend.status = 0x003) :
    s.cmdReg.toNat ≤ s.config.nReg ∧ s.openFlag = true ∧ s.writeAnswer = true := by
  rcases Nat.lt_or_ge s.config.nReg s.cmdReg.toNat with hr | hr
  · rw [State.cmdSend_outOfRange hr] at h
    exact absurd h (errorStatus_ne_success _)
  · rw [State.cmdSend_inRange hr] at h
    rcases s.send_cases s.cmdReg.toNat s.cmdVal with ⟨-, he⟩ | ⟨-, -, he⟩ | ⟨ho, ha, -⟩
    · rw [he] at h
      exact absurd h (errorStatus_ne_success _)
    · rw [he] at h
      exact absurd h (errorStatus_ne_success _)
    · exact ⟨hr, ho, ha⟩

/-- NOP and the codec make no bus request (R151, R159). -/
theorem State.after_busLog_of_not_command (s : State) {i : Instr} (hi : i.isCommand = false) : (s.after i).busLog = s.busLog := by
  cases i with
  | nop => rfl
  | encode => exact s.after_codec_busLog (.inl rfl)
  | decode => exact s.after_codec_busLog (.inr (.inl rfl))
  | check => exact s.after_codec_busLog (.inr (.inr rfl))
  | cmdInit | cmdSend | cmdIdle | cmdSetband | bandidx => cases hi

/-- The inner send makes one request or none (R190). -/
theorem State.send_busLog (s : State) (r : Nat) (v : Word) :
    (s.send r v).busLog = s.busLog ∨ ∃ p ok, (s.send r v).busLog = s.busLog ++ [.writeReq p ok] := by
  rcases s.send_cases r v with ⟨-, he⟩ | ⟨-, -, he⟩ | ⟨-, -, he⟩ <;> rw [he]
  · exact .inl rfl
  · exact .inr ⟨_, _, rfl⟩
  · exact .inr ⟨_, _, rfl⟩

end Sys2Proof.Machine

namespace Sys2Proof

open Machine

/-- Settles O33: the entries before the first match are passed over; with no match these are all of them. -/
theorem bandIndexIsTheFirstMatch : Obligations.BandIndexIsTheFirstMatch := by
  refine ⟨fun c f pre post r hl hpre hr => ?_, fun c f hall => ?_⟩
  · rw [bandIndex, hl, ladderIndex_append_of_not_matches fun q hq => not_rungMatches_iff.2 (hpre q hq)]
    exact ladderIndex_cons_of_matches (rungMatches_iff.2 hr) post _
  · rw [bandIndex, ← List.append_nil c.bandLadder,
      ladderIndex_append_of_not_matches fun q hq => not_rungMatches_iff.2 (hall q hq)]
    rfl

/-- Settles O34: the ladder's two fixed entries give the ranges, the configuration's own checks the three points. -/
theorem bandIndexBindingValues : Obligations.BandIndexBindingValues := fun c =>
  ⟨fun _ hf => c.bandIndex_eq_zero hf, fun _ hlo hhi => c.bandIndex_eq_one hlo hhi, c.bandIndex_points⟩

/-- Settles O38: the burst is answered success. -/
theorem cmdInitOpensAndSendsTheDefaults : Obligations.CmdInitOpensAndSendsTheDefaults := by
  intro s hc ho ha
  have h := exec_cmdInit_opened hc ho
  rwa [ha] at h

/-- Settles O40: the burst is answered failure. -/
theorem cmdInitBurstFailure : Obligations.CmdInitBurstFailure := by
  intro s hc ho ha
  have h := exec_cmdInit_opened hc ho
  rwa [ha] at h

/-- Settles O41: the register is in range, so CMD_SEND is the inner send. -/
theorem cmdSendRecordsTheValue : Obligations.CmdSendRecordsTheValue := by
  intro s hc hr ho ha
  obtain ⟨hframe, hshadow, hout⟩ := State.send_recorded (State.cmdSend_inRange hr) ho ha
  rw [wireCommandBytes] at hframe
  exact ⟨s.cmdSend, exec_of_present hc rfl, hframe, hshadow, hout⟩

/-- Settles O42: the range test comes before the inner send, which tests OPEN before it makes its request. -/
theorem cmdSendFailuresLeaveTheTable : Obligations.CmdSendFailuresLeaveTheTable := by
  intro s hc
  have hexec : exec .cmdSend s = .next s.cmdSend := exec_of_present hc rfl
  refine ⟨fun hr => ?_, fun hr ho => ?_, fun hr ho ha => ?_⟩
  · rw [hexec, State.cmdSend_outOfRange hr]
    rfl
  · rw [hexec, State.cmdSend_inRange hr, State.send_closed ho]
    rfl
  · rw [hexec, State.cmdSend_inRange hr, State.send_refused ho ha]

/-- Settles O43: while OPEN is 1 CMD_IDLE is the burst of the table. -/
theorem cmdIdleSendsTheTable : Obligations.CmdIdleSendsTheTable := by
  intro s hc
  have hexec : exec .cmdIdle s = .next s.cmdIdle := exec_of_present hc rfl
  refine ⟨fun ho => ?_, fun ho => ?_⟩
  · rw [hexec, State.cmdIdle_open ho, State.sendBurst_eq, State.shadowTable, burstBytes_map]
  · rw [hexec, State.cmdIdle_closed ho]
    rfl

/-- Settles O44: the inner send runs with the new band in CUR_BAND. -/
theorem setbandSendsTheNewBand : Obligations.SetbandSendsTheNewBand := by
  intro s hc hb ho ha
  obtain ⟨hframe, hshadow, hout⟩ := State.send_recorded (State.cmdSetband_newBand hb) ho ha
  have hband : s.cmdSetband.curBand = s.bandOfFreq := congrArg State.curBand hframe
  rw [wireCmd_eq, wordBytes_bandArgument] at hframe
  refine ⟨s.cmdSetband, exec_of_present hc rfl, ?_, ?_, ?_, fun a ha' => ?_⟩
  · rw [hband]
    exact hframe
  · rw [hband, s.bandOfFreq_toNat]
  · exact hshadow.trans s.bandArgument_bandOfFreq
  · exact (hout a ha').trans (State.readByte_congr rfl rfl a)

/-- Settles O45: the band of the frequency is the one in CUR_BAND. -/
theorem setbandToTheSameBandIsSilent : Obligations.SetbandToTheSameBandIsSilent := by
  intro s hc hb
  rw [exec_of_present hc (i := .cmdSetband) rfl, State.cmdSetband_sameBand hb]
  rfl

/-- Settles O46: the failed send leaves the new band in CUR_BAND, and to that band the repeat is silent. -/
theorem setbandFailureSuppressesTheRetry : Obligations.SetbandFailureSuppressesTheRetry := by
  intro s hc hb hfail
  have hsend := State.send_failed (State.cmdSetband_newBand hb) hfail
  have hexec : exec .cmdSetband s = .next s.cmdSetband := exec_of_present hc rfl
  generalize s.cmdSetband = t at hsend hexec
  have hband : t.curBand.toNat = (bandIndex s.config s.cmdFreq).val := by rw [hsend, s.bandOfFreq_toNat]
  have hcfg : t.config = s.config := by rw [hsend]
  have hfreq : t.cmdFreq = s.cmdFreq := by rw [hsend]
  have hrepeat := setbandToTheSameBandIsSilent t (by rw [hcfg, hc]) (by rw [hcfg, hfreq, hband])
  rw [s.bandArgument_bandOfFreq] at hsend
  refine ⟨t, _, hexec, ?_, hband, ?_, ?_, ?_, ?_, ?_, ?_, hfreq, ?_, hrepeat, rfl, rfl, rfl⟩
  all_goals rw [hsend]

/-- Settles O47: the successful send leaves the value in the table and OPEN at 1, and CMD_IDLE sends that table. -/
theorem sendThenIdleTransmitsTheValue : Obligations.SendThenIdleTransmitsTheValue := by
  intro s t u hc ht hok hu
  have hsend : t = s.cmdSend := Host.Outcome.next.inj (ht.symm.trans (exec_of_present hc rfl))
  obtain ⟨hr, ho, ha⟩ := State.cmdSend_succeeded (hsend ▸ hok)
  obtain ⟨t', ht', hframe, hshadow, -⟩ := cmdSendRecordsTheValue s hc hr ho ha
  obtain rfl := Host.Outcome.next.inj (ht.symm.trans ht')
  have hconfig : t.config = s.config := by rw [hframe]
  have hopen : t.openFlag = true := by rw [hframe, ho]
  obtain ⟨hburst, -⟩ := cmdIdleSendsTheTable t (hconfig ▸ hc)
  obtain rfl := Host.Outcome.next.inj (hu.symm.trans (hburst hopen))
  refine ⟨_, _, rfl, fun j hj => ?_⟩
  obtain ⟨-, -, -, hbytes⟩ := burstBytesOfTheTable t
  have hslot := hbytes s.cmdReg.toNat j (hconfig ▸ hr) hj
  rwa [hshadow, State.shadowTable, burstBytes_map] at hslot

/-- Settles O35: the band index fits its register. -/
theorem bandidxWritesBandOut : Obligations.BandidxWritesBandOut := fun s hc =>
  ⟨s.bandidx, exec_of_present hc rfl, rfl, s.bandOfFreq_toNat⟩

/-- Settles O39: the code of TransportOpenFailure is 1 (R220). -/
theorem cmdInitOpenFailure : Obligations.CmdInitOpenFailure := by
  intro s hc ha
  rw [exec_of_present hc (i := .cmdInit) rfl, State.cmdInit_refused ha, State.opened_of_answer ha]
  rfl

/-- Settles O48: CMD_INIT makes its burst behind a successful open, the other operations make at most one request. -/
theorem atMostOneRequestOfEachKind : Obligations.AtMostOneRequestOfEachKind := by
  intro i s t h
  have ht : t = s.after i := Host.Outcome.next.inj (h.symm.trans (exec_eq_after i s))
  cases hi : i.isCommand with
  | false => exact .inl (ht ▸ s.after_busLog_of_not_command hi)
  | true =>
    cases hc : s.config.cmdPresent with
    | false =>
      rw [ht, State.after_command_absent hc hi]
      exact .inl rfl
    | true =>
      cases i with
      | nop | encode | decode | check => cases hi
      | bandidx =>
        cases h.symm.trans (exec_of_present hc (op := State.bandidx) rfl)
        exact .inl rfl
      | cmdInit =>
        refine .inr ⟨by decide, rfl, .inr ?_⟩
        cases ha : s.openAnswer with
        | false =>
          cases h.symm.trans (cmdInitOpenFailure s hc ha)
          exact .inl ⟨rfl, rfl⟩
        | true =>
          obtain ⟨t', ht', hframe, -, -⟩ := exec_cmdInit_opened hc ha
          obtain rfl := Host.Outcome.next.inj (h.symm.trans ht')
          exact .inr ⟨_, _, rfl, congrArg State.busLog hframe⟩
      | cmdIdle =>
        obtain ⟨hburst, hclosed⟩ := cmdIdleSendsTheTable s hc
        cases ho : s.openFlag with
        | false =>
          cases h.symm.trans (hclosed ho)
          exact .inl rfl
        | true =>
          cases h.symm.trans (hburst ho)
          exact .inr ⟨by decide, rfl, .inl ⟨_, _, by decide, rfl⟩⟩
      | cmdSend =>
        cases h.symm.trans (exec_of_present hc (op := State.cmdSend) rfl)
        rcases Nat.lt_or_ge s.config.nReg s.cmdReg.toNat with hr | hr
        · rw [State.cmdSend_outOfRange hr]
          exact .inl rfl
        · rw [State.cmdSend_inRange hr]
          rcases s.send_busLog s.cmdReg.toNat s.cmdVal with hlog | ⟨p, ok, hlog⟩
          · exact .inl hlog
          · exact .inr ⟨by decide, rfl, .inl ⟨p, ok, by decide, hlog⟩⟩
      | cmdSetband =>
        cases h.symm.trans (exec_of_present hc (op := State.cmdSetband) rfl)
        by_cases hb : (bandIndex s.config s.cmdFreq).val = s.curBand.toNat
        · rw [State.cmdSetband_sameBand hb]
          exact .inl rfl
        · rw [State.cmdSetband_newBand hb]
          rcases State.send_busLog { s with curBand := s.bandOfFreq } s.config.bandReg (bandArgument s.bandOfFreq) with
            hlog | ⟨p, ok, hlog⟩
          · exact .inl hlog
          · exact .inr ⟨by decide, rfl, .inl ⟨p, ok, by decide, hlog⟩⟩

end Sys2Proof
end

section
/-! Proofs for 60_exceptions.md: the invariant that every step keeps, that every step answers a next state (R228, R150, R60), the errors of each
operation (R222), and what a failing operation changes (R225). -/

namespace Sys2Proof.Machine

/-! The stores of the machine all fall into a buffer (R61). -/

/-- `m'` is `m` after stores into the buffers: what the invariant needs to know of a change of the memory. -/
structure BackedStores (c : Cfg) (m m' : Memory) : Prop where
  canonical : m.wf = true → m'.wf = true
  backed    : ∀ cell ∈ m', cell ∈ m ∨ bufferByte c cell.1
  written   : ∀ a, m.read a ≠ none → m'.read a ≠ none

theorem BackedStores.refl (c : Cfg) (m : Memory) : BackedStores c m m :=
  ⟨id, fun _ => .inl, fun _ => id⟩

theorem BackedStores.trans {c : Cfg} {m₁ m₂ m₃ : Memory} (h : BackedStores c m₁ m₂) (h' : BackedStores c m₂ m₃) :
    BackedStores c m₁ m₃ where
  canonical := h'.canonical ∘ h.canonical
  backed := fun cell hcell => (h'.backed cell hcell).elim (h.backed cell) .inr
  written := fun a ha => h'.written a (h.written a ha)

/-- One store whose range lies in a buffer. -/
theorem BackedStores.write {c : Cfg} {a : Nat} {bs : List Byte} (m : Memory)
    (hin : ∀ b, a ≤ b ∧ b < a + bs.length → bufferByte c b) : BackedStores c m (m.write a bs) where
  canonical := fun h => Memory.wf_write h a bs
  backed := fun cell hcell => (Memory.mem_write hcell).imp_right (hin cell.1)
  written := fun _ ha => Memory.read_write_ne_none (.inr ha)

theorem BackedStores.writeSampleWord (c : Cfg) (m : Memory) {k : Nat} (hk : k < 1024) (v : Word) :
    BackedStores c m (m.write (sbBase + 4 * k) (wordBytes v)) :=
  .write m fun b hb => by
    rw [wordBytes_length, sbBase] at hb
    exact .inl (by omega)

theorem BackedStores.writeFrameWord (c : Cfg) (m : Memory) {w : Nat} (hw : w < 1034) (v : Word) :
    BackedStores c m (m.write (fbBase + 4 * w) (wordBytes v)) :=
  .write m fun b hb => by
    rw [wordBytes_length, fbBase] at hb
    exact .inr (.inl (by omega))

theorem BackedStores.writeSamples (c : Cfg) (m : Memory) {ws : List Word} (h : ws.length = 1024) :
    BackedStores c m (m.write sbBase (wordsBytes ws)) :=
  .write m fun b hb => by
    rw [wordsBytes_length, h, sbBase] at hb
    exact .inl (by omega)

theorem BackedStores.writeFrame (c : Cfg) (m : Memory) (magic : Word) {samples : List Word} (x : FieldRegs) (h : samples.length = 1024) :
    BackedStores c m (m.write fbBase (frameOf magic samples x)) :=
  .write m fun b hb => by
    rw [frameOf_length _ _ _ h, fbBase, frameBytes] at hb
    exact .inr (.inl (by omega))

theorem BackedStores.writeShadowWord {c : Cfg} (hc : c.cmdPresent = true) (m : Memory) {r : Nat} (hr : r ≤ c.nReg) (v : Word) :
    BackedStores c m (m.write (shadowBase + 4 * r) (wordBytes v)) :=
  .write m fun b hb => by
    rw [wordBytes_length, shadowBase] at hb
    exact .inr (.inr ⟨hc, by omega, by omega⟩)

/-- A store of all words of the shadow table covers exactly its bytes (R34). -/
theorem shadowByte_iff_fill {c : Cfg} {f : Nat → Word} {a : Nat} :
    shadowByte c a ↔ shadowBase ≤ a ∧ a < shadowBase + (wordsBytes ((List.range (c.nReg + 1)).map f)).length := by
  rw [wordsBytes_length, List.length_map, List.length_range]
  rfl

theorem BackedStores.fillShadow {c : Cfg} (hc : c.cmdPresent = true) (m : Memory) (f : Nat → Word) :
    BackedStores c m (m.write shadowBase (wordsBytes ((List.range (c.nReg + 1)).map f))) :=
  .write m fun _ hb => .inr (.inr ⟨hc, shadowByte_iff_fill.2 hb⟩)

/-- An operation stores into the buffers alone. -/
theorem State.after_backedStores (s : State) (i : Instr) : BackedStores s.config s.mem (s.after i).mem := by
  rcases s.after_mem i with hm | ⟨-, hm⟩ | ⟨-, hm⟩ | ⟨-, hc, -, hm⟩ | ⟨-, hc, -, hr, hm⟩ | ⟨-, hc, -, hm⟩ <;> rw [hm]
  · exact .refl _ _
  · exact .writeFrame _ _ _ _ s.samples_length
  · exact .writeSamples _ _ s.unpackSamples_length
  · exact (BackedStores.fillShadow hc _ _).trans (.fillShadow hc _ _)
  · exact .writeShadowWord hc _ hr _
  · exact .writeShadowWord hc _ s.cfg.bandReg_le _

/-- A host write stores into the sample or the frame buffer, or nothing. -/
theorem State.writeLocation_backedStores (s : State) {off : Nat} {l : Location} (hl : locate s.config off = some l) (v : Word) :
    BackedStores s.config s.mem (s.writeLocation l v).mem := by
  obtain ⟨-, hsample, hframe, -, -⟩ := locate_cases hl
  cases l with
  | sample k => exact .writeSampleWord _ _ (hsample k rfl) v
  | frame w => exact .writeFrameWord _ _ (hframe w rfl) v
  | _ => exact .refl _ _

/-! OPEN after an operation (R35, R184). -/

theorem State.validateThen_openFlag (s : State) {k : State → State} (hk : ∀ t : State, (k t).openFlag = t.openFlag) :
    (s.validateThen k).openFlag = s.openFlag := by
  rcases s.validateThen_cases k with ⟨-, he⟩ | ⟨-, he⟩ <;> rw [he]
  exact hk _

theorem State.send_openFlag (s : State) (r : Nat) (v : Word) : (s.send r v).openFlag = s.openFlag := by
  rcases s.send_cases r v with ⟨-, he⟩ | ⟨-, -, he⟩ | ⟨-, -, he⟩ <;> rw [he] <;> rfl

/-- Every operation but CMD_INIT keeps OPEN. -/
theorem State.after_openFlag_of_ne_cmdInit (s : State) {i : Instr} (hi : i ≠ .cmdInit) : (s.after i).openFlag = s.openFlag := by
  have hunit : ∀ op : State → State, (op s).openFlag = s.openFlag → (s.withCommandUnit op).openFlag = s.openFlag := by
    intro op hop
    cases hc : s.config.cmdPresent with
    | false => rw [State.withCommandUnit_absent hc, State.raise_openFlag]
    | true => rwa [State.withCommandUnit_present hc]
  cases i with
  | nop => rfl
  | encode => rw [State.after]; split <;> rfl
  | decode => exact s.validateThen_openFlag fun _ => rfl
  | check => exact s.validateThen_openFlag fun _ => rfl
  | cmdInit => exact absurd rfl hi
  | cmdSend =>
    refine hunit _ ?_
    rw [State.cmdSend]
    split
    · rfl
    · exact s.send_openFlag _ _
  | cmdIdle =>
    refine hunit _ ?_
    rcases s.cmdIdle_cases with ⟨-, he⟩ | ⟨-, -, he⟩ | ⟨-, -, he⟩ <;> rw [he] <;> rfl
  | cmdSetband =>
    refine hunit _ ?_
    rw [State.cmdSetband]
    split
    · rfl
    · exact State.send_openFlag _ _ _
  | bandidx => exact hunit _ rfl

/-- OPEN changes only by CMD_INIT with the command unit present, which sets it to 1 only after it has filled the shadow table. -/
theorem State.after_openFlag (s : State) (i : Instr) :
    (s.after i).openFlag = s.openFlag ∨
    (s.config.cmdPresent = true ∧ ((s.after i).openFlag = false ∨ (s.after i).mem = s.loadDefaults.mem)) := by
  by_cases hi : i = .cmdInit
  · subst hi
    cases hc : s.config.cmdPresent with
    | false => exact .inl (by rw [State.after_command_absent hc rfl, State.raise_openFlag])
    | true =>
      refine .inr ⟨rfl, ?_⟩
      rw [State.after, State.withCommandUnit_present hc]
      cases ha : s.openAnswer with
      | false => exact .inl (by rw [State.cmdInit_refused ha, State.opened_of_answer ha, State.raise_openFlag])
      | true => exact .inr (by rw [State.cmdInit_opened ha, State.sendBurst_eq, State.loadDefaults_mem, State.loadDefaults_mem]; rfl)
  · exact .inl (s.after_openFlag_of_ne_cmdInit hi)

/-- After the filling of CMD_INIT every byte of the shadow table is written. -/
theorem State.loadDefaults_written (s : State) {a : Nat} (ha : shadowByte s.config a) : s.loadDefaults.mem.read a ≠ none := by
  rw [State.loadDefaults_mem]
  exact Memory.read_write_ne_none (.inl (shadowByte_iff_fill.1 ha))

/-! Each way a step can go keeps the invariant. -/

/-- The invariant does not speak of the port's queue and history, and of STATUS only that its word is legal. -/
theorem State.Inv.withPortAndStatus {s : State} (h : s.Inv) (p : List Input) (g : List Exchange) {w : BitVec 12} (hw : w ∈ legalStatus) :
    ({ s with port := p, hostLog := g, status := w } : State).Inv :=
  ⟨h.memCanonical, h.memBacked, hw, h.curBandLegal, h.bandOutLegal, h.shadowDefined, h.unitAbsent⟩

theorem State.Inv.popped {s : State} (h : s.Inv) (rest : List Input) : (s.popped rest).Inv :=
  h.withPortAndStatus rest s.hostLog h.statusLegal

theorem State.Inv.logHost {s : State} (h : s.Inv) (i : Input) (r : Response) : (s.logHost i r).Inv :=
  h.withPortAndStatus s.port (s.hostLog ++ [Exchange.mk i r]) h.statusLegal

theorem State.Inv.raise_illegalOp {s : State} (h : s.Inv) : (s.raise .illegalOp).Inv :=
  h.withPortAndStatus s.port s.hostLog (List.mem_of_mem_tail (errorStatus_mem nofun))

/-- The reset event leaves the spec's own state as after power-on (R250). -/
theorem State.applyReset_inv (s : State) : s.applyReset.Inv := by
  have h := State.initial_inv s.cfg
  exact ⟨h.memCanonical, h.memBacked, h.statusLegal, h.curBandLegal, h.bandOutLegal, h.shadowDefined, h.unitAbsent⟩

/-- The memory's part of the invariant after stores into the buffers. -/
theorem State.Inv.memBacked_of_backedStores {s : State} {m : Memory} (h : s.Inv) (hm : BackedStores s.config s.mem m) :
    ∀ cell ∈ m, bufferByte s.config cell.1 :=
  fun cell hcell => (hm.backed cell hcell).elim (h.memBacked cell) id

@[simp] theorem State.writeLocation_openFlag (s : State) (l : Location) (v : Word) : (s.writeLocation l v).openFlag = s.openFlag := by
  cases l <;> rfl

@[simp] theorem State.writeLocation_bandOut (s : State) (l : Location) (v : Word) : (s.writeLocation l v).bandOut = s.bandOut := by
  cases l <;> rfl

/-- Without the command unit no host write reaches its operand registers (R39, R61). -/
theorem State.writeLocation_unitAbsent (s : State) {off : Nat} {l : Location} (hl : locate s.config off = some l) (v : Word)
    (hc : s.config.cmdPresent = false) :
    (s.writeLocation l v).cmdReg = s.cmdReg ∧ (s.writeLocation l v).cmdVal = s.cmdVal ∧
    (s.writeLocation l v).cmdFreq = s.cmdFreq := by
  obtain ⟨-, -, -, -, hcommand⟩ := locate_cases hl
  have hout : ¬(l = .cmdReg ∨ l = .cmdVal ∨ l = .cmdFreq ∨ l = .bandOut ∨ l = .curBand) :=
    fun h => absurd (hcommand h) (by rw [hc]; decide)
  cases l with
  | cmdReg | cmdVal | cmdFreq => exact absurd hout (by simp)
  | _ => exact ⟨rfl, rfl, rfl⟩

theorem State.Inv.writeLocation {s : State} (h : s.Inv) {off : Nat} {l : Location} (hl : locate s.config off = some l) (v : Word) :
    (s.writeLocation l v).Inv := by
  have hm := s.writeLocation_backedStores hl v
  have hcfg : (s.writeLocation l v).config = s.config := congrArg WfCfg.raw (s.writeLocation_cfg l v)
  constructor
  case memCanonical => exact hm.canonical h.memCanonical
  case memBacked => rw [hcfg]; exact h.memBacked_of_backedStores hm
  case statusLegal => rw [s.writeLocation_status]; exact h.statusLegal
  case curBandLegal => rw [s.writeLocation_curBand]; exact h.curBandLegal
  case bandOutLegal => rw [s.writeLocation_bandOut]; exact h.bandOutLegal
  case shadowDefined =>
    rw [hcfg, s.writeLocation_openFlag]
    exact fun hopen a ha => hm.written a (h.shadowDefined hopen a ha)
  case unitAbsent =>
    intro hc
    rw [hcfg] at hc
    obtain ⟨hreg, hval, hfreq⟩ := s.writeLocation_unitAbsent hl v hc
    rw [s.writeLocation_openFlag, s.writeLocation_bandOut, s.writeLocation_curBand, hreg, hval, hfreq]
    exact h.unitAbsent hc

/-- A band index is at most 22 (R33, R181(b)). -/
theorem State.bandOfFreq_le (s : State) : s.bandOfFreq.toNat ≤ 22 := by
  rw [s.bandOfFreq_toNat]
  exact Nat.le_of_lt_succ (bandIndex s.config s.cmdFreq).isLt

theorem State.Inv.after {s : State} (h : s.Inv) (i : Instr) : (s.after i).Inv := by
  have hm := s.after_backedStores i
  obtain ⟨hcfg, -, -, -, hreg, hval, hfreq⟩ := s.after_sameOutside i
  obtain ⟨hcur, hout⟩ := s.after_bands i
  constructor
  case memCanonical => exact hm.canonical h.memCanonical
  case memBacked => rw [State.config, hcfg]; exact h.memBacked_of_backedStores hm
  case statusLegal => exact List.mem_of_mem_tail (s.after_status i)
  case curBandLegal =>
    rcases hcur with hsame | ⟨-, -, hnew⟩
    · rw [hsame]; exact h.curBandLegal
    · rw [hnew]; exact s.bandOfFreq_le
  case bandOutLegal =>
    rcases hout with hsame | ⟨-, -, hnew⟩
    · rw [hsame]; exact h.bandOutLegal
    · rw [hnew]; exact s.bandOfFreq_le
  case shadowDefined =>
    intro hopen a ha
    rw [State.config, hcfg] at ha
    rcases s.after_openFlag i with hsame | ⟨-, hclosed | hloaded⟩
    · exact hm.written a (h.shadowDefined (hsame ▸ hopen) a ha)
    · exact absurd (hclosed.symm.trans hopen) (by decide)
    · rw [hloaded]; exact s.loadDefaults_written ha
  case unitAbsent =>
    intro hc
    rw [State.config, hcfg] at hc
    have hunit : s.config.cmdPresent ≠ true := by rw [hc]; decide
    rw [(s.after_openFlag i).resolve_right fun hp => hunit hp.1, hcur.resolve_right fun hp => hunit hp.2.1,
      hout.resolve_right fun hp => hunit hp.2.1, hreg, hval, hfreq]
    exact h.unitAbsent hc

/-! Every input is served (R60, R228). -/

theorem exists_step_hostWrite {s : State} {off : Nat} {v : Word} {rest : List Input} (hp : s.port = .hostWrite off v :: rest) :
    ∃ t, step s = .next t := by
  cases hl : locate s.config off with
  | none => exact ⟨_, step_hostWrite_unmapped hp hl⟩
  | some l =>
    by_cases hop : l = .op
    · subst hop
      obtain ⟨hzero, -⟩ := locate_cases hl
      obtain rfl := hzero rfl
      cases hd : decode v with
      | ok i => exact ⟨_, step_hostWrite_op hp hd⟩
      | error e => exact ⟨_, step_hostWrite_op_illegal hp hd⟩
    · exact ⟨_, step_hostWrite hp hl hop⟩

theorem exists_step (s : State) : ∃ t, step s = .next t := by
  cases hp : s.port with
  | nil => exact ⟨s, step_idle hp⟩
  | cons i rest =>
    cases i with
    | hostRead off => exact ⟨_, step_hostRead hp⟩
    | hostWrite off v => exact exists_step_hostWrite hp
    | reset => exact ⟨_, step_serve hp⟩

/-! The words STATUS can hold after each operation (R222). -/

/-- DECODE and CHECK succeed or report an invalid frame (R153, R154). -/
theorem State.after_validating_status (s : State) {i : Instr} (hi : i = .decode ∨ i = .check) :
    (s.after i).status = 0x003 ∨ (s.after i).status = 0x131 ∨ (s.after i).status = 0x231 ∨ (s.after i).status = 0x331 := by
  cases hv : s.frameValid with
  | false =>
    rw [State.after_invalid hv hi, ← State.errorStatus_badFrame hv]
    exact .inr (s.badFrame_status hv)
  | true =>
    obtain rfl | rfl := hi
    · exact .inl (State.after_decode_status hv)
    · exact .inl (by rw [State.after_check_valid hv, successStatus])

theorem State.sendBurst_status (s : State) : s.sendBurst.status = 0x003 ∨ s.sendBurst.status = 0x021 := by
  rcases s.sendBurst_cases with ⟨-, he⟩ | ⟨-, he⟩ <;> rw [he]
  · exact .inl rfl
  · exact .inr rfl

/-- CMD_INIT's code tells whether the bus was opened (R184). -/
theorem State.cmdInit_status (s : State) :
    (s.openAnswer = false ∧ s.cmdInit.status = 0x011) ∨
    (s.openAnswer = true ∧ (s.cmdInit.status = 0x003 ∨ s.cmdInit.status = 0x021)) := by
  cases ha : s.openAnswer with
  | false => exact .inl ⟨rfl, by rw [State.cmdInit_refused ha]; rfl⟩
  | true => exact .inr ⟨rfl, by rw [State.cmdInit_opened ha]; exact State.sendBurst_status _⟩

theorem State.cmdIdle_status (s : State) : s.cmdIdle.status = 0x003 ∨ s.cmdIdle.status = 0x021 := by
  cases ho : s.openFlag with
  | false => exact .inr (by rw [State.cmdIdle_closed ho]; rfl)
  | true => rw [State.cmdIdle_open ho]; exact s.sendBurst_status

theorem State.cmdSend_status (s : State) : s.cmdSend.status = 0x003 ∨ s.cmdSend.status = 0x021 ∨ s.cmdSend.status = 0x041 := by
  rcases Nat.lt_or_ge s.config.nReg s.cmdReg.toNat with hr | hr
  · exact .inr (.inr (by rw [State.cmdSend_outOfRange hr]; rfl))
  · rw [State.cmdSend_inRange hr]
    exact (s.send_status _ _).imp_right .inl

theorem State.cmdSetband_status (s : State) : s.cmdSetband.status = 0x003 ∨ s.cmdSetband.status = 0x021 := by
  by_cases hb : (bandIndex s.config s.cmdFreq).val = s.curBand.toNat
  · exact .inl (by rw [State.cmdSetband_sameBand hb]; rfl)
  · rw [State.cmdSetband_newBand hb]
    exact State.send_status _ _ _

/-! What a failing operation changes (R225). -/

/-- The inner send that fails records nothing in the shadow table (R183). -/
theorem State.send_frame_of_failure {s t : State} {r : Nat} {v : Word} (ht : t = s.send r v) (hfail : t.status ≠ 0x003) :
    t = { s with status := t.status, writeAnswers := t.writeAnswers, draws := t.draws, busLog := t.busLog } := by
  rcases s.send_cases r v with ⟨-, he⟩ | ⟨-, -, he⟩ | ⟨-, -, he⟩
  · rw [ht, he]; rfl
  · rw [ht, he]; rfl
  · exact absurd (congrArg State.status (ht.trans he)) hfail

theorem State.cmdSend_frame_of_failure {s t : State} (ht : t = s.cmdSend) (hfail : t.status ≠ 0x003) :
    t = { s with status := t.status, writeAnswers := t.writeAnswers, draws := t.draws, busLog := t.busLog } := by
  rcases Nat.lt_or_ge s.config.nReg s.cmdReg.toNat with hr | hr
  · rw [ht, State.cmdSend_outOfRange hr]; rfl
  · exact State.send_frame_of_failure (ht.trans (State.cmdSend_inRange hr)) hfail

/-- CMD_SETBAND that fails leaves CUR_BAND at the new band (R187). -/
theorem State.cmdSetband_frame_of_failure {s t : State} (ht : t = s.cmdSetband) (hfail : t.status ≠ 0x003) :
    t = { s with
      status := t.status, curBand := t.curBand, writeAnswers := t.writeAnswers, draws := t.draws, busLog := t.busLog } := by
  by_cases hb : (bandIndex s.config s.cmdFreq).val = s.curBand.toNat
  · exact absurd (congrArg State.status (ht.trans (State.cmdSetband_sameBand hb))) hfail
  · have hsend := State.send_frame_of_failure (ht.trans (State.cmdSetband_newBand hb)) hfail
    rw [hsend]

theorem State.cmdIdle_frame (s : State) :
    s.cmdIdle = { s with
      status := s.cmdIdle.status, writeAnswers := s.cmdIdle.writeAnswers, draws := s.cmdIdle.draws, busLog := s.cmdIdle.busLog } := by
  rcases s.cmdIdle_cases with ⟨-, he⟩ | ⟨-, -, he⟩ | ⟨-, -, he⟩ <;> rw [he] <;> rfl

/-- DECODE and CHECK that fail change STATUS and CRC_CALC (R153, R154). -/
theorem State.after_validating_frame_of_failure {s t : State} {i : Instr} (hi : i = .decode ∨ i = .check) (ht : t = s.after i)
    (hfail : t.status ≠ 0x003) : t = { s with status := t.status, crcCalc := t.crcCalc } := by
  cases hv : s.frameValid with
  | false => rw [ht, State.after_invalid hv hi]
  | true =>
    obtain rfl | rfl := hi
    · exact absurd (ht ▸ State.after_decode_status hv) hfail
    · exact absurd (congrArg State.status (ht.trans (State.after_check_valid hv))) hfail

/-- CMD_INIT whose open is refused (R184, R225). -/
theorem State.cmdInit_frame_of_openFailure {s t : State} (ht : t = s.cmdInit) (hfail : t.status = 0x011) :
    t = { s with status := 0x011, openFlag := false, openAnswers := t.openAnswers, draws := t.draws, busLog := t.busLog } := by
  rcases s.cmdInit_status with ⟨ha, -⟩ | ⟨-, hstatus⟩
  · rw [ht, State.cmdInit_refused ha, State.opened_of_answer ha]; rfl
  · rw [← ht, hfail] at hstatus
    exact absurd hstatus (by decide)

/-- CMD_INIT whose burst is refused keeps OPEN at 1 and the table filled (R184, R225). -/
theorem exec_cmdInit_burstFailure {s t : State} (hc : s.config.cmdPresent = true) (hexec : exec .cmdInit s = .next t)
    (hfail : t.status = 0x021) :
    t = { s with
      status := 0x021, openFlag := true, mem := t.mem, openAnswers := t.openAnswers, writeAnswers := t.writeAnswers,
      draws := t.draws, busLog := t.busLog } ∧
    (∀ r, r ≤ s.config.nReg → t.shadow r = s.config.defaults.getD r 0) ∧
    ∀ a, a < shadowBase ∨ shadowBase + 4 * (s.config.nReg + 1) ≤ a → t.readByte a = s.readByte a := by
  rcases s.cmdInit_status with ⟨-, hstatus⟩ | ⟨ha, -⟩
  · cases hexec.symm.trans (exec_of_present hc rfl)
    exact absurd (hstatus.symm.trans hfail) (by decide)
  · obtain ⟨t', ht', hframe, htable, hout⟩ := exec_cmdInit_opened hc ha
    obtain rfl := Host.Outcome.next.inj (hexec.symm.trans ht')
    refine ⟨?_, htable, hout⟩
    rw [← hfail, hframe]

/-- A word that selects no operation raises IllegalOp (R92). -/
theorem State.runOp_illegal {w : Word} (h : ∀ i, decode w ≠ .ok i) (s : State) : s.runOp w = .next (s.raise .illegalOp) := by
  cases hd : decode w with
  | ok i => exact absurd hd (h i)
  | error e => rw [State.runOp, hd]

end Sys2Proof.Machine

namespace Sys2Proof

open Machine

/-- Settles O57: a step waits, answers a read, stores a location, runs an operation or resets, and each of these keeps the invariant. -/
theorem everyStepKeepsTheInvariant : Obligations.EveryStepKeepsTheInvariant := by
  intro s t h hstep
  rcases step_cases hstep with ⟨-, rfl⟩ | ⟨off, rest, -, rfl⟩ | ⟨rest, -, rfl⟩ | ⟨off, v, rest, -, -, rfl⟩ |
    ⟨off, v, rest, l, -, hl, -, rfl⟩ | ⟨off, v, rest, i, -, -, -, rfl⟩ | ⟨off, v, rest, e, -, -, -, rfl⟩
  · exact h
  · exact (h.popped rest).logHost _ _
  · exact State.applyReset_inv _
  · exact (h.popped rest).logHost _ _
  · exact ((h.popped rest).writeLocation hl v).logHost _ _
  · exact ((h.popped rest).after i).logHost _ _
  · exact (h.popped rest).raise_illegalOp.logHost _ _

/-- Settles O7: every input is served, and `State.after` is the state an operation answers. -/
theorem everyStepAnswersANextState : Obligations.EveryStepAnswersANextState :=
  ⟨exists_step, fun i s => ⟨s.after i, exec_eq_after i s⟩⟩

/-- Settles O49: by the STATUS words of each operation's pseudocode, which runs when its unit is present. -/
theorem errorsOfEachOperation : Obligations.ErrorsOfEachOperation := by
  intro i s t h
  obtain rfl : t = s.after i := Host.Outcome.next.inj (h.symm.trans (exec_eq_after i s))
  refine ⟨fun hi hc => by rw [State.after_command_absent hc hi]; rfl, fun hunit => ?_⟩
  have hop : i.isCommand = true → ∀ op : State → State, s.after i = s.withCommandUnit op → s.after i = op s := by
    intro hi op he
    rw [he, State.withCommandUnit_present (hunit.resolve_left (by rw [hi]; decide))]
  cases i with
  | nop => rfl
  | encode =>
    by_cases hn : s.nsamp = 512
    · exact .inl (State.after_encode_status hn)
    · exact .inr (by rw [State.after_encode_short hn]; rfl)
  | decode => exact s.after_validating_status (.inl rfl)
  | check => exact s.after_validating_status (.inr rfl)
  | cmdInit =>
    rw [hop rfl _ rfl]
    rcases s.cmdInit_status with ⟨-, hstatus⟩ | ⟨-, hstatus⟩
    · exact .inr (.inl hstatus)
    · exact hstatus.imp_right .inr
  | cmdSend => rw [hop rfl _ rfl]; exact s.cmdSend_status
  | cmdIdle => rw [hop rfl _ rfl]; exact s.cmdIdle_status
  | cmdSetband => rw [hop rfl _ rfl]; exact s.cmdSetband_status
  | bandidx => rw [hop rfl _ rfl]; rfl

/-- Settles O50: each operation fails at its unit's test (R39), which changes STATUS alone, or in its pseudocode. -/
theorem failingOperationChangesOnlyItsList : Obligations.FailingOperationChangesOnlyItsList := by
  refine ⟨fun i s t h hfail => ?_, fun s t w hillegal h => ?_⟩
  · have ht : t = s.after i := Host.Outcome.next.inj (h.symm.trans (exec_eq_after i s))
    have habsent : i.isCommand = true → s.config.cmdPresent = false → t = s.raise .illegalOp :=
      fun hi hc => ht.trans (State.after_command_absent hc hi)
    have hpresent : s.config.cmdPresent = true → ∀ op : State → State, s.after i = s.withCommandUnit op → t = op s :=
      fun hc op he => ht.trans (he.trans (State.withCommandUnit_present hc op))
    cases i with
    | nop => exact hfail (congrArg State.status ht)
    | encode =>
      have hn : s.nsamp ≠ 512 := fun hn => hfail (ht ▸ State.after_encode_status hn)
      rw [ht, State.after_encode_short hn]; rfl
    | decode => exact State.after_validating_frame_of_failure (.inl rfl) ht hfail
    | check => exact State.after_validating_frame_of_failure (.inr rfl) ht hfail
    | cmdInit =>
      cases hc : s.config.cmdPresent with
      | false =>
        have hstatus : t.status = 0x051 := congrArg State.status (habsent rfl hc)
        rw [hstatus]
        exact ⟨fun h => absurd h (by decide), fun h => absurd h (by decide)⟩
      | true => exact ⟨State.cmdInit_frame_of_openFailure (hpresent hc _ rfl), exec_cmdInit_burstFailure hc h⟩
    | cmdSend =>
      cases hc : s.config.cmdPresent with
      | false => rw [habsent rfl hc]; rfl
      | true => exact State.cmdSend_frame_of_failure (hpresent hc _ rfl) hfail
    | cmdIdle =>
      cases hc : s.config.cmdPresent with
      | false => rw [habsent rfl hc]; rfl
      | true => rw [hpresent hc _ rfl]; exact s.cmdIdle_frame
    | cmdSetband =>
      cases hc : s.config.cmdPresent with
      | false => rw [habsent rfl hc]; rfl
      | true => exact State.cmdSetband_frame_of_failure (hpresent hc _ rfl) hfail
    | bandidx =>
      cases hc : s.config.cmdPresent with
      | false => rw [habsent rfl hc]; rfl
      | true => exact absurd (congrArg State.status (hpresent hc _ rfl)) hfail
  · cases h.symm.trans (State.runOp_illegal hillegal s)
    rfl

end Sys2Proof
end

section
/-! Proofs for 70_reset_and_hazards.md: the reset event (R250) and the waiting step (R251). -/

namespace Sys2Proof.Machine

/-- The step of a reset event (R71, R250). -/
theorem step_reset {s : State} {rest : List Input} (hp : s.port = .reset :: rest) :
    step s = .next (s.popped rest).applyReset := by
  rw [step_serve hp, State.serve]

/-- The reset leaves the STATUS word of the initial state (R38). -/
@[simp] theorem State.applyReset_statusWord (s : State) : s.applyReset.statusWord = 0 :=
  State.initial_statusWord s.cfg

/-- The reset leaves every byte of the window at its next power-on draw (R250). -/
@[simp] theorem State.applyReset_readByte (s : State) (a : Nat) :
    s.applyReset.readByte a = Config.powerOnByte (s.resets + 1) a := by
  rw [State.readByte, State.applyReset_mem, Memory.read_nil, State.applyReset_resets]

end Sys2Proof.Machine

namespace Sys2Proof

open Machine

/-- Settles O9: the step of a reset event is `State.applyReset`, which starts over from the initial state of the configuration. -/
theorem resetEventRestoresTheResetValues : Obligations.ResetEventRestoresTheResetValues :=
  fun s rest hp => ⟨(s.popped rest).applyReset, step_reset hp, rfl, State.applyReset_statusWord _, rfl, rfl, rfl, rfl, rfl, rfl, rfl,
    rfl, rfl, rfl, rfl, rfl, State.applyReset_readByte _⟩

/-- Settles O6: an empty queue gives the step no input to serve. -/
theorem waitingStepKeepsTheState : Obligations.WaitingStepKeepsTheState :=
  fun _ hp => step_idle hp

end Sys2Proof
end
